-- ==== Sys2Proof/Word.lean ====
section
/-! DEFINITION. The word types of SFP (00_scope.md R11, 30_encoding.md R71, R82): plain bit vectors, all unsigned. -/

namespace Sys2Proof

/-- A byte, 8 bits in every space (R11, R40). -/
abbrev Byte := BitVec 8

/-- A 16-bit header field, `length` or `type` (R42, R70). -/
abbrev Half := BitVec 16

/-- The DEC command word `cmd[9:0]` (R82). -/
abbrev CmdWord := BitVec 10

/-- The 32-bit header word `H`: `length` in bits 31..16, `type` in bits 15..0 (R71). -/
abbrev HeaderWord := BitVec 32

end Sys2Proof
end

