-- ==== Sys2Proof/Config.lean ====
section
/-! DEFINITION. The parameters of SFP (00_scope.md R6, R7, R8; 92_eei_decisions.md D5, D15, D25): what an instance
fixes and no operation changes. They are plain data, carried in the state's field `cfg`, so that a claim about every
state is a claim about every instance; log entry 1 says why. -/

namespace Sys2Proof

/-- A parameter that is a natural number or `inf` (R8). -/
inductive Bound where
  | finite (n : Nat)
  | inf
  deriving DecidableEq, Repr

/-- `k` does not exceed the bound. -/
def Bound.admits : Bound → Nat → Bool
  | .finite n, k => decide (k ≤ n)
  | .inf, _ => true

/-- The parameters an instance is built with: `MAX_PAYLOAD` (R6, D25), `RB_CAP` and `ENC_IN_MAX` (R8). -/
structure Config where
  maxPayload : Nat
  rbCap : Bound
  encInMax : Bound
  deriving DecidableEq, Repr

/-- `LEN_BYTES` (R6). -/
abbrev lenBytes : Nat := 2
/-- `TYPE_BYTES` (R6). -/
abbrev typeBytes : Nat := 2
/-- `HEADER_BYTES = LEN_BYTES + TYPE_BYTES` (R6, R7). -/
abbrev headerSize : Nat := lenBytes + typeBytes
/-- `MIN_LENGTH_FIELD`: a frame with an empty payload (R6, R72). -/
abbrev minLengthField : Nat := 2
/-- `MIN_FRAME_BYTES = MIN_LENGTH_FIELD + LEN_BYTES` (R7). -/
abbrev minFrameBytes : Nat := minLengthField + lenBytes

/-- `TYPE_CHAT` (R6, R77). -/
def typeChat : Half := 1
/-- `TYPE_JOIN_ROOM` (R6, R77). -/
def typeJoinRoom : Half := 2
/-- `TYPE_LEAVE_ROOM` (R6, R77). -/
def typeLeaveRoom : Half := 3

/-- `MAX_LENGTH_FIELD = MAX_PAYLOAD + TYPE_BYTES` (R7). -/
abbrev Config.maxLengthField (c : Config) : Nat := c.maxPayload + typeBytes

/-- `MAX_FRAME_BYTES = MAX_LENGTH_FIELD + LEN_BYTES` (R7). -/
abbrev Config.maxFrameBytes (c : Config) : Nat := c.maxLengthField + lenBytes

/-- The values a parameter set may have: every legal `length` fits 16 bits (R7), and the Receive Buffer holds the
greatest frame (R8, R57). -/
def Config.valid (c : Config) : Bool :=
  decide (c.maxLengthField ≤ 65535) && c.rbCap.admits c.maxFrameBytes

/-- The parameters at the document's values: `MAX_PAYLOAD = 1024` (R6), a growable buffer `RB_CAP = inf` and an
arbitrary ENC payload `ENC_IN_MAX = inf` (R8). DESIGN CHOICE, log entry 1: the spec leaves the last two open. -/
def Config.document : Config where
  maxPayload := 1024
  rbCap := .inf
  encInMax := .inf

end Sys2Proof
end

