-- ==== Sys2Proof/Syntax.lean ====
section
/-! DEFINITION. The instructions of SFP: one constructor per row of spec/opcode_table.json (30_encoding.md R90).
Three kinds stand side by side, as in the table: the commands of DEC's command port (R82), the one request of ENC
(R87), and the frame kinds of the incoming stream, which are its "instructions"
(42_frame_types.md). RESET is a pin and has no row (R90, R170); it is an event of the host, in Machine/State.lean. -/

namespace Sys2Proof

/-- The rows of the opcode table. A DEC command keeps its `data` byte even where the block ignores it (R83), a frame
kind keeps the header fields its row leaves free; the payload of a frame is not part of the header word and is read
from the Receive Buffer by the meaning (R81). -/
inductive Instr where
  /-- FEED_BYTE(b), `op = 00` (R82, R101). -/
  | feedByte (b : Byte)
  /-- FEED_EOF, `op = 01`, `data` ignored (R82, R83, R102). -/
  | feedEof (data : Byte)
  /-- EXTRACT, `op = 10`, `data` ignored (R82, R83, R103). -/
  | extract (data : Byte)
  /-- The reserved command, `op = 11` (R84). -/
  | reservedCmd (data : Byte)
  /-- ENCODE(type, payload); an absent payload is the empty one (R87, R140, R142). -/
  | encode (type : Half) (payload : List Byte)
  /-- A header with `length` 0 or 1 (R79, R167). -/
  | illegalLengthLow (length type : Half)
  /-- A header with `length` `0x0403` (R79, R167). -/
  | illegalLengthHigh0403 (length type : Half)
  /-- A header with `length` in `0x0404..0x0407` (R79, R167). -/
  | illegalLengthHigh0404 (length type : Half)
  /-- A header with `length` in `0x0408..0x040F` (R79, R167). -/
  | illegalLengthHigh0408 (length type : Half)
  /-- A header with `length` in `0x0410..0x041F` (R79, R167). -/
  | illegalLengthHigh0410 (length type : Half)
  /-- A header with `length` in `0x0420..0x043F` (R79, R167). -/
  | illegalLengthHigh0420 (length type : Half)
  /-- A header with `length` in `0x0440..0x047F` (R79, R167). -/
  | illegalLengthHigh0440 (length type : Half)
  /-- A header with `length` in `0x0480..0x04FF` (R79, R167). -/
  | illegalLengthHigh0480 (length type : Half)
  /-- A header with `length` in `0x0500..0x05FF` (R79, R167). -/
  | illegalLengthHigh0500 (length type : Half)
  /-- A header with `length` in `0x0600..0x07FF` (R79, R167). -/
  | illegalLengthHigh0600 (length type : Half)
  /-- A header with `length` in `0x0800..0x0FFF` (R79, R167). -/
  | illegalLengthHigh0800 (length type : Half)
  /-- A header with `length` in `0x1000..0x1FFF` (R79, R167). -/
  | illegalLengthHigh1000 (length type : Half)
  /-- A header with `length` in `0x2000..0x3FFF` (R79, R167). -/
  | illegalLengthHigh2000 (length type : Half)
  /-- A header with `length` in `0x4000..0x7FFF` (R79, R167). -/
  | illegalLengthHigh4000 (length type : Half)
  /-- A header with `length` in `0x8000..0xFFFF` (R79, R167). -/
  | illegalLengthHigh8000 (length type : Half)
  /-- A CHAT header, `type = 1`, `length` legal (R77, R161). -/
  | chat (length : Half)
  /-- A JOIN_ROOM header, `type = 2`, `length` legal (R77, R162). -/
  | joinRoom (length : Half)
  /-- A LEAVE_ROOM header, `type = 3`, `length` legal (R77, R163). -/
  | leaveRoom (length : Half)
  /-- The header of any other type, `length` legal (R77, R78, R164). -/
  | opaqueFrame (length type : Half)
  deriving DecidableEq, Repr

/-- An encoded instruction, by the table's three formats (R90): `CMD`, the ten wires of the command port; `ENCREQ`,
the operands of ENC, which has no operation bits; `FRAME`, bytes of the stream from a frame boundary on. -/
inductive Encoding where
  | cmd (w : CmdWord)
  | encReq (type : Half) (payload : List Byte)
  | stream (bytes : List Byte)
  deriving DecidableEq, Repr

/-- Why the decoder rejects an encoding. -/
inductive DecodeError where
  /-- Fewer than 4 bytes stand at the frame boundary, so there is no header to read (R111). -/
  | headerNotBuffered
  deriving DecidableEq, Repr

/-- What the decoder answers: an instruction, or a rejection by name. -/
inductive Decoded where
  | instr (i : Instr)
  | rejected (why : DecodeError)
  deriving DecidableEq, Repr

end Sys2Proof
end

