-- ==== Sys2Proof/Machine/State.lean ====
section
/-! DEFINITION. The state of SFP as plain data. The architectural state is R20's: the Receive Buffer, the two sticky
STATUS bits and the three ghost counters; ENC has none (R31). Beside it stand the parameters (R8), and the spaces and
ports by which the block meets its surroundings (R40, R59): what the host offers next, the bytes accepted, the Frames
and responses given, the frames ENC returned. Those are the model's own record of the interface; no operation of the
block reads them (log entries 3 to 5). There is no addressed memory, no register file and no program counter
(R26, R27, R40). -/

namespace Sys2Proof.Machine

/-- A Frame, `(length, type, payload)` (R14). -/
structure Frame where
  length : Half
  type : Half
  payload : List Byte
  deriving DecidableEq, Repr

/-- The responses of DEC (R14, R85). Codes 3 and 6 are never given and have no constructor (R85, U15). -/
inductive Response where
  | ok
  | streamClosed
  | protocolViolation (length type : Half)
  | frame (f : Frame)
  | stall
  | refused
  deriving DecidableEq, Repr

/-- The error taxonomy (R180): the three fatal conditions of the document. -/
inductive FatalCondition where
  | streamClosed
  | protocolViolation
  | transportError
  deriving DecidableEq, Repr

/-- The faults the block raises, with what each carries (R180, R184). They are responses after which the machine goes
on (R189, R123), not the `Fault` below. -/
inductive BlockFault where
  | streamClosed
  | protocolViolation (length type : Half)
  deriving DecidableEq, Repr

/-- What the host does to the block at one instant (R10, R59). -/
inductive HostEvent where
  /-- `rst = 1`, with the DEC command offered at the same instant, if any: RESET wins (R170, D2). -/
  | rst (offered : Option CmdWord)
  /-- The inbound flow offers a command on the command port (R54, R82). -/
  | cmd (w : CmdWord)
  /-- Two agents drive the one command port at the same instant (R216). -/
  | clash (w₁ w₂ : CmdWord)
  /-- The outbound flow presents an ENC request; `none` is an absent payload (R87, R142). -/
  | encRequest (type : Half) (payload : Option (List Byte))
  deriving DecidableEq, Repr

/-- The state. -/
structure State where
  /-- The parameters of the instance; no operation writes them (R8, R32). -/
  cfg : Config
  /-- `RB`, the Receive Buffer, head first (R20, R21). -/
  rb : List Byte
  /-- `STATUS.CLOSED` (R20, R24). -/
  closed : Bool
  /-- `STATUS.VIOL` (R20, R24). -/
  viol : Bool
  /-- Ghost counter `FED`: bytes appended since reset (R28). -/
  fed : Nat
  /-- Ghost counter `CONSUMED`: bytes removed since reset (R27, R28). -/
  consumed : Nat
  /-- Ghost counter `EMITTED`: Frames delivered since reset (R28). -/
  emitted : Nat
  /-- The space IN: every byte accepted since reset, in order, by absolute offset (R40). -/
  inStream : List Byte
  /-- The space OUT: the Frames delivered since reset, in order (R40). -/
  out : List Frame
  /-- The response port: the response to the last accepted DEC command since reset (R59, R85). -/
  rsp : Option Response
  /-- The space ENC-OUT: the frames ENC returned, in order (R40). -/
  encOut : List (List Byte)
  /-- What the host does next, soonest first (R10). -/
  inputs : List HostEvent
  deriving DecidableEq, Repr

/-- Reasons the machine itself stops. There is none: the two faults of the block (R180) are responses after which it
goes on (R123, R189), and "there is no double-fault condition and no lock-up state" (R192). Nobody raises it. -/
inductive Fault where
  deriving DecidableEq, Repr

/-- Reasons the model gives a step no meaning. -/
inductive Refusal where
  /-- An instruction that has no meaning yet; no arm of `exec` raises it now. Safe. -/
  | notModelled (mnemonic : String)
  /-- Raised by `step` where two agents drive the DEC port at once: "outside the spec and a model should refuse it"
  (R216, U4). Safe. -/
  | twoIssuers
  /-- Raised by `step` for an ENC payload longer than `ENC_IN_MAX`, which cannot be presented (R8, R140). Safe. -/
  | payloadNotPresentable
  deriving DecidableEq, Repr

/-- The machine right after RESET (R35, R211), at the document's parameters, with nothing offered to it yet. The
response port, the interface records and the parameters are the model's choice (log entries 1, 3, 5). -/
def State.reset : State where
  cfg := Config.document
  rb := []
  closed := false
  viol := false
  fed := 0
  consumed := 0
  emitted := 0
  inStream := []
  out := []
  rsp := none
  encOut := []
  inputs := []

end Sys2Proof.Machine
end

