-- ==== Sys2Proof/Machine/Flags.lean ====
section
/-! DEFINITION. The STATUS register: two sticky bits, the only flags of the block (10_state.md R24, R25), how they are
set, and the two outputs that show them (20_memory.md R59, 60_exceptions.md R186). Only RESET clears them
(Ops.lean, R170). No operation reads them (R123). -/

namespace Sys2Proof.Machine

/-- `STATUS.CLOSED <- 1` (R102). -/
def setClosed (s : State) : State := { s with closed := true }

/-- `STATUS.VIOL <- 1` (R103). -/
def setViol (s : State) : State := { s with viol := true }

/-- `STATUS.CLOSED <- 0 ; STATUS.VIOL <- 0` (R170). -/
def clearStatus (s : State) : State := { s with closed := false, viol := false }

/-- `status[1:0]`, the STATUS register as the host reads it: bit 0 `CLOSED`, bit 1 `VIOL` (R24, R171). -/
def statusReg (s : State) : BitVec 2 := BitVec.ofBool s.viol ++ BitVec.ofBool s.closed

/-- The level output `fault = status[0] or status[1]` (R59, R186). -/
def faultOut (s : State) : Bool := s.closed || s.viol

end Sys2Proof.Machine
end

