-- ==== Sys2Proof/WellFormed.lean ====
section
/-! DEFINITION. Which instruction terms are well formed: the operand ranges the spec gives each row of the opcode
table. A frame kind's `length` lies in the block R79 gives its row (the "`length` block" column; the decoder uses the
`match` and `mask` columns), a legal kind's in `2..1026`, and OPAQUE's type is none of the three assigned (R77, R164).
The table's rows are built for `MAX_PAYLOAD = 1024` (R79), so these ranges are the document's, whatever `cfg` says. -/

namespace Sys2Proof

/-- `length` lies in the block `lo..hi` of R79. -/
def inBlock (lo hi : Nat) (length : Half) : Bool :=
  decide (lo ≤ length.toNat) && decide (length.toNat ≤ hi)

/-- `length` lies in `MIN_LENGTH_FIELD..MAX_LENGTH_FIELD` at the document's values, `2..1026` (R72). -/
def tableLegalLength (length : Half) : Bool :=
  inBlock minLengthField Config.document.maxLengthField length

/-- The type is one of the three the system assigns (R77). -/
def isAssignedType (type : Half) : Bool :=
  type == typeChat || type == typeJoinRoom || type == typeLeaveRoom

/-- The well-formed instructions of an instance with parameters `c`: ENCODE's payload is one the ENC input can present,
`0 <= n <= ENC_IN_MAX` (R87, R140); the other ranges are the table's. -/
def Instr.wellFormed (c : Config) : Instr → Bool
  | .feedByte _ => true
  | .feedEof _ => true
  | .extract _ => true
  | .reservedCmd _ => true
  | .encode _ payload => c.encInMax.admits payload.length
  | .illegalLengthLow length _ => inBlock 0 1 length
  | .illegalLengthHigh0403 length _ => inBlock 0x0403 0x0403 length
  | .illegalLengthHigh0404 length _ => inBlock 0x0404 0x0407 length
  | .illegalLengthHigh0408 length _ => inBlock 0x0408 0x040F length
  | .illegalLengthHigh0410 length _ => inBlock 0x0410 0x041F length
  | .illegalLengthHigh0420 length _ => inBlock 0x0420 0x043F length
  | .illegalLengthHigh0440 length _ => inBlock 0x0440 0x047F length
  | .illegalLengthHigh0480 length _ => inBlock 0x0480 0x04FF length
  | .illegalLengthHigh0500 length _ => inBlock 0x0500 0x05FF length
  | .illegalLengthHigh0600 length _ => inBlock 0x0600 0x07FF length
  | .illegalLengthHigh0800 length _ => inBlock 0x0800 0x0FFF length
  | .illegalLengthHigh1000 length _ => inBlock 0x1000 0x1FFF length
  | .illegalLengthHigh2000 length _ => inBlock 0x2000 0x3FFF length
  | .illegalLengthHigh4000 length _ => inBlock 0x4000 0x7FFF length
  | .illegalLengthHigh8000 length _ => inBlock 0x8000 0xFFFF length
  | .chat length => tableLegalLength length
  | .joinRoom length => tableLegalLength length
  | .leaveRoom length => tableLegalLength length
  | .opaqueFrame length type => tableLegalLength length && !isAssignedType type

end Sys2Proof
end

