-- ==== Sys2Proof/Decode.lean ====
section
/-! DEFINITION. Decoding and encoding (30_encoding.md R70 to R91): the byte order of the wire, the 10-bit command word,
the 32-bit header word with the opcode table's `match` and `mask` rows in their try order, and the fixed entry point
`decodeTableWord`. Everything is total: a command word always names one of four operations, a header word one of the
nineteen frame kinds; the one rejection is a stream with fewer than 4 bytes. -/

namespace Sys2Proof

/-! ### Byte order (20_memory.md R42) -/

/-- `v[15:8]`, the byte that comes first on the wire (R42). -/
def hiByte (v : Half) : Byte := v.extractLsb' 8 8

/-- `v[7:0]`, the byte that comes second on the wire (R42). -/
def loByte (v : Half) : Byte := v.extractLsb' 0 8

/-- `be16(S, a) = S[a] * 256 + S[a+1]` (00_scope.md R13). -/
def be16 (S : List Byte) (a : Nat) : Half :=
  BitVec.ofNat 16 ((S.getD a 0).toNat * 256 + (S.getD (a + 1) 0).toNat)

/-- The four bytes of a header, in wire order (R70). -/
def headerBytes (length type : Half) : List Byte :=
  [hiByte length, loByte length, hiByte type, loByte type]

/-- `H = S[0] * 2^24 + S[1] * 2^16 + S[2] * 2^8 + S[3]` (R71). -/
def headerWord (S : List Byte) : HeaderWord :=
  BitVec.ofNat 32 ((S.getD 0 0).toNat * 2 ^ 24 + (S.getD 1 0).toNat * 2 ^ 16 +
    (S.getD 2 0).toNat * 2 ^ 8 + (S.getD 3 0).toNat)

/-- The header word of two fields: `length` in bits 31..16, `type` in bits 15..0 (R71). -/
def headerWordOf (length type : Half) : HeaderWord := length ++ type

/-- `H[31:16]` (R71). -/
def wordLength (H : HeaderWord) : Half := H.extractLsb' 16 16

/-- `H[15:0]` (R71). -/
def wordType (H : HeaderWord) : Half := H.extractLsb' 0 16

/-! ### Commands of DEC (R82, R83, R84) -/

/-- `cmd[7:0]` (R82). -/
def cmdData (w : CmdWord) : Byte := w.extractLsb' 0 8

/-- A command word with `op` in bits 9..8 and `data` in bits 7..0 (R82). -/
def cmdWord (op : BitVec 2) (data : Byte) : CmdWord := op ++ data

/-- The four rows of format CMD: a word selects the row with `w & 0x300 = match` (R82, R90). -/
def decodeCmd (w : CmdWord) : Instr :=
  if w &&& 0x300#10 = 0x000#10 then .feedByte (cmdData w)
  else if w &&& 0x300#10 = 0x100#10 then .feedEof (cmdData w)
  else if w &&& 0x300#10 = 0x200#10 then .extract (cmdData w)
  else .reservedCmd (cmdData w)

/-! ### Frame kinds (R77, R79, R90) -/

/-- A row of format FRAME: it is selected by `H & mask = value` (R90). -/
structure FrameRow where
  mask : HeaderWord
  value : HeaderWord
  build : Half → Half → Instr

/-- `H & mask = match` (R90). -/
def FrameRow.selects (r : FrameRow) (H : HeaderWord) : Bool := H &&& r.mask == r.value

/-- Try order 1: `length < 2` (R79). -/
def illegalLowRow : FrameRow := ⟨0xFFFE0000, 0x00000000, .illegalLengthLow⟩

/-- Try order 2: the fourteen blocks of `length > 1026` (R79). -/
def illegalHighRows : List FrameRow :=
  [⟨0xFFFF0000, 0x04030000, .illegalLengthHigh0403⟩,
    ⟨0xFFFC0000, 0x04040000, .illegalLengthHigh0404⟩,
    ⟨0xFFF80000, 0x04080000, .illegalLengthHigh0408⟩,
    ⟨0xFFF00000, 0x04100000, .illegalLengthHigh0410⟩,
    ⟨0xFFE00000, 0x04200000, .illegalLengthHigh0420⟩,
    ⟨0xFFC00000, 0x04400000, .illegalLengthHigh0440⟩,
    ⟨0xFF800000, 0x04800000, .illegalLengthHigh0480⟩] ++
  [⟨0xFF000000, 0x05000000, .illegalLengthHigh0500⟩,
    ⟨0xFE000000, 0x06000000, .illegalLengthHigh0600⟩,
    ⟨0xF8000000, 0x08000000, .illegalLengthHigh0800⟩,
    ⟨0xF0000000, 0x10000000, .illegalLengthHigh1000⟩,
    ⟨0xE0000000, 0x20000000, .illegalLengthHigh2000⟩,
    ⟨0xC0000000, 0x40000000, .illegalLengthHigh4000⟩,
    ⟨0x80000000, 0x80000000, .illegalLengthHigh8000⟩]

/-- Try order 3: the three assigned types (R77). -/
def assignedTypeRows : List FrameRow :=
  [⟨0x0000FFFF, 0x00000001, fun length _ => .chat length⟩,
    ⟨0x0000FFFF, 0x00000002, fun length _ => .joinRoom length⟩,
    ⟨0x0000FFFF, 0x00000003, fun length _ => .leaveRoom length⟩]

/-- Try order 4, the catch-all (R77, R164). -/
def opaqueRow : FrameRow := ⟨0x00000000, 0x00000000, .opaqueFrame⟩

/-- The rows tried before the catch-all, in try order (R90). -/
def frameRows : List FrameRow := illegalLowRow :: (illegalHighRows ++ assignedTypeRows)

/-- The frame kind of a header word: the first row that selects it (R90). -/
def decodeHeader (H : HeaderWord) : Instr :=
  ((frameRows.find? (·.selects H)).getD opaqueRow).build (wordLength H) (wordType H)

/-- The header fields a frame kind stands for; none for the operations of DEC and ENC. The three assigned kinds fix
their type (R77). -/
def Instr.header : Instr → Option (Half × Half)
  | .feedByte _ => none
  | .feedEof _ => none
  | .extract _ => none
  | .reservedCmd _ => none
  | .encode _ _ => none
  | .illegalLengthLow length type => some (length, type)
  | .illegalLengthHigh0403 length type => some (length, type)
  | .illegalLengthHigh0404 length type => some (length, type)
  | .illegalLengthHigh0408 length type => some (length, type)
  | .illegalLengthHigh0410 length type => some (length, type)
  | .illegalLengthHigh0420 length type => some (length, type)
  | .illegalLengthHigh0440 length type => some (length, type)
  | .illegalLengthHigh0480 length type => some (length, type)
  | .illegalLengthHigh0500 length type => some (length, type)
  | .illegalLengthHigh0600 length type => some (length, type)
  | .illegalLengthHigh0800 length type => some (length, type)
  | .illegalLengthHigh1000 length type => some (length, type)
  | .illegalLengthHigh2000 length type => some (length, type)
  | .illegalLengthHigh4000 length type => some (length, type)
  | .illegalLengthHigh8000 length type => some (length, type)
  | .chat length => some (length, typeChat)
  | .joinRoom length => some (length, typeJoinRoom)
  | .leaveRoom length => some (length, typeLeaveRoom)
  | .opaqueFrame length type => some (length, type)

/-- The fifteen kinds of illegal header (R79, R167). -/
def Instr.isIllegalHeader : Instr → Bool
  | .feedByte _ => false
  | .feedEof _ => false
  | .extract _ => false
  | .reservedCmd _ => false
  | .encode _ _ => false
  | .illegalLengthLow _ _ => true
  | .illegalLengthHigh0403 _ _ => true
  | .illegalLengthHigh0404 _ _ => true
  | .illegalLengthHigh0408 _ _ => true
  | .illegalLengthHigh0410 _ _ => true
  | .illegalLengthHigh0420 _ _ => true
  | .illegalLengthHigh0440 _ _ => true
  | .illegalLengthHigh0480 _ _ => true
  | .illegalLengthHigh0500 _ _ => true
  | .illegalLengthHigh0600 _ _ => true
  | .illegalLengthHigh0800 _ _ => true
  | .illegalLengthHigh1000 _ _ => true
  | .illegalLengthHigh2000 _ _ => true
  | .illegalLengthHigh4000 _ _ => true
  | .illegalLengthHigh8000 _ _ => true
  | .chat _ => false
  | .joinRoom _ => false
  | .leaveRoom _ => false
  | .opaqueFrame _ _ => false

/-! ### The decoder and the encoder -/

/-- The decoder. Of a stream it reads the first four bytes; the bytes behind them are the payload, which the meaning
reads from the Receive Buffer (R81). -/
def decode : Encoding → Decoded
  | .cmd w => .instr (decodeCmd w)
  | .encReq type payload => .instr (.encode type payload)
  | .stream bytes =>
    if bytes.length < headerSize then .rejected .headerNotBuffered
    else .instr (decodeHeader (headerWord bytes))

/-- The encoder: the command word of R82, the request of R87, the four header bytes of R70. -/
def encode : Instr → Encoding
  | .feedByte b => .cmd (cmdWord 0 b)
  | .feedEof data => .cmd (cmdWord 1 data)
  | .extract data => .cmd (cmdWord 2 data)
  | .reservedCmd data => .cmd (cmdWord 3 data)
  | .encode type payload => .encReq type payload
  | .illegalLengthLow length type => .stream (headerBytes length type)
  | .illegalLengthHigh0403 length type => .stream (headerBytes length type)
  | .illegalLengthHigh0404 length type => .stream (headerBytes length type)
  | .illegalLengthHigh0408 length type => .stream (headerBytes length type)
  | .illegalLengthHigh0410 length type => .stream (headerBytes length type)
  | .illegalLengthHigh0420 length type => .stream (headerBytes length type)
  | .illegalLengthHigh0440 length type => .stream (headerBytes length type)
  | .illegalLengthHigh0480 length type => .stream (headerBytes length type)
  | .illegalLengthHigh0500 length type => .stream (headerBytes length type)
  | .illegalLengthHigh0600 length type => .stream (headerBytes length type)
  | .illegalLengthHigh0800 length type => .stream (headerBytes length type)
  | .illegalLengthHigh1000 length type => .stream (headerBytes length type)
  | .illegalLengthHigh2000 length type => .stream (headerBytes length type)
  | .illegalLengthHigh4000 length type => .stream (headerBytes length type)
  | .illegalLengthHigh8000 length type => .stream (headerBytes length type)
  | .chat length => .stream (headerBytes length typeChat)
  | .joinRoom length => .stream (headerBytes length typeJoinRoom)
  | .leaveRoom length => .stream (headerBytes length typeLeaveRoom)
  | .opaqueFrame length type => .stream (headerBytes length type)

/-! ### Words of the opcode table -/

/-- The encoding a table word stands for: rows of no bits (or one byte of zeros) are ENC requests (type 0, empty
payload), rows of ten bits (two whole bytes) command words, rows of 32 bits header words, stored big-endian (R71). A
word with a bit its row does not have is no word of the table. -/
def tableEncoding (nbits w : Nat) : Option Encoding :=
  if nbits = 0 ∨ nbits = 8 then (if w = 0 then some (.encReq 0 []) else none)
  else if nbits = 10 ∨ nbits = 16 then
    (if w < 2 ^ 10 then some (.cmd (BitVec.ofNat 10 w)) else none)
  else if nbits = 32 then
    (if w < 2 ^ 32 then
      some (.stream (headerBytes (wordLength (BitVec.ofNat 32 w)) (wordType (BitVec.ofNat 32 w))))
    else none)
  else none

/-- The instruction the decoder reads from a table word of `nbits` bits. -/
def decodeTableWord (nbits w : Nat) : Option Instr :=
  match tableEncoding nbits w with
  | none => none
  | some e =>
    match decode e with
    | .instr i => some i
    | .rejected _ => none

end Sys2Proof
end

