-- ==== Sys2Proof/Machine/Operands.lean ====
section
/-! DEFINITION. Operand assembly: the header view of the Receive Buffer (10_state.md R30, 30_encoding.md R73), the
legality of a `length` and the size of a frame (R72, R73, R124), the bytes of a frame (R70, R74) and the absent
payload (R142). -/

namespace Sys2Proof.Machine

/-- `HDR.length = be16(RB, 0)`; meaningful only with 4 bytes buffered (R30). -/
def hdrLength (s : State) : Half := be16 s.rb 0

/-- `HDR.type = be16(RB, 2)`; meaningful only with 4 bytes buffered (R30). -/
def hdrType (s : State) : Half := be16 s.rb 2

/-- `2 <= length <= MAX_LENGTH_FIELD`, unsigned (R72, R124). -/
def legalLength (c : Config) (length : Half) : Bool :=
  decide (minLengthField ≤ length.toNat) && decide (length.toNat ≤ c.maxLengthField)

/-- `HDR.legal` (R30). -/
def hdrLegal (s : State) : Bool := legalLength s.cfg (hdrLength s)

/-- `total = 2 + length`, a natural number, so that no sum wraps (R73, R124). -/
abbrev frameTotal (length : Half) : Nat := lenBytes + length.toNat

/-- `HDR.total` (R30). -/
abbrev hdrTotal (s : State) : Nat := frameTotal (hdrLength s)

/-- The header view: defined only when 4 bytes are buffered (R30). -/
def headerView (s : State) : Option (Half × Half) :=
  if s.rb.length < headerSize then none else some (hdrLength s, hdrType s)

/-- `p = [] if payload is absent else payload` (R140, R142). -/
def payloadOperand (payload : Option (List Byte)) : List Byte := payload.getD []

/-- The frame ENCODE returns, for an encoder built with `MAX_PAYLOAD = maxPayload`: cut the payload silently, count
the two type bytes, write both fields high byte first, then the payload verbatim (R74, R140). -/
def encodeFrame (maxPayload : Nat) (type : Half) (payload : List Byte) : List Byte :=
  headerBytes (BitVec.ofNat 16 (typeBytes + (payload.take maxPayload).length)) type ++
    payload.take maxPayload

/-- The bytes of a Frame on the wire (R70). -/
def Frame.wire (f : Frame) : List Byte := headerBytes f.length f.type ++ f.payload

/-- The invariant of a Frame: `length == 2 + len(payload)` and `2 <= length <= MAX_PAYLOAD + 2` (R14). -/
def Frame.wf (c : Config) (f : Frame) : Bool :=
  decide (f.length.toNat = typeBytes + f.payload.length) && legalLength c f.length

end Sys2Proof.Machine
end

