-- ==== Sys2Proof/Machine/Ops.lean ====
section
/-! DEFINITION. The named operations over the Receive Buffer, the counters and the response port: the pseudocode
primitives of 00_scope.md R13, the four accesses to RB of 20_memory.md R45, raising a fault (60_exceptions.md R189),
one pass of the drain loop (40_decoder_ops.md R103) and RESET (43_system_ops.md R170). A fault is taken in ONE place,
`raise`; there is no return from one (R191). -/

namespace Sys2Proof.Machine

/-- `return r`: the operation ends with response `r` (R13, R85). -/
def respond (r : Response) (s : State) : State := { s with rsp := some r }

/-- `MemRead(a, n) = RB[a..a+n)`, without consuming; used only where `a + n <= len(RB)` (R13). -/
def memRead (a n : Nat) (s : State) : List Byte := (s.rb.drop a).take n

/-- `Peek4() = MemRead(0, 4)` (R13). -/
def peek4 (s : State) : List Byte := memRead 0 headerSize s

/-- `Append(T)`: `RB <- RB ++ T`, `FED <- FED + len(T)`; the bytes enter the space IN with it (R13, R40). -/
def append (T : List Byte) (s : State) : State :=
  { s with rb := s.rb ++ T, fed := s.fed + T.length, inStream := s.inStream ++ T }

/-- `Consume(n)`: `RB <- RB[n..len(RB))`, `CONSUMED <- CONSUMED + n` (R13). -/
def consume (n : Nat) (s : State) : State :=
  { s with rb := s.rb.drop n, consumed := s.consumed + n }

/-- A Frame is handed to the consumer: it joins the space OUT and is counted (R40, R62, R103). -/
def emit (f : Frame) (s : State) : State := { s with out := s.out ++ [f], emitted := s.emitted + 1 }

/-- RB has room for one more byte. With `len(RB) <= RB_CAP` this is `len(RB) ≠ RB_CAP` (R22, R56). -/
def hasRoom (s : State) : Bool := s.cfg.rbCap.admits (s.rb.length + 1)

/-- Raising a fault does three things and no more: the operation ends with the fault as its response, the fault's
sticky bit is set, RB and the counters stay (R189). -/
def raise : BlockFault → State → State
  | .streamClosed, s => respond .streamClosed (setClosed s)
  | .protocolViolation length type, s => respond (.protocolViolation length type) (setViol s)

/-- Step 4 of the drain loop: read the payload, consume the frame, deliver it, all in one (R46, R103). -/
def deliver (length type : Half) (s : State) : State :=
  let f : Frame := ⟨length, type, memRead headerSize (frameTotal length - headerSize) s⟩
  respond (.frame f) (emit f (consume (frameTotal length) s))

/-- One pass of the drain loop over a header with fields `length` and `type`, the tests in the order of R187: the
loop guard, the legality of `length`, the completeness of the frame, delivery. The comparison is with
`MAX_LENGTH_FIELD` of the instance (R79, R103). -/
def drainPass (length type : Half) (s : State) : State :=
  if s.rb.length < headerSize then respond .stall s
  else if legalLength s.cfg length = false then raise (.protocolViolation length type) s
  else if s.rb.length < frameTotal length then respond .stall s
  else deliver length type s

/-- `FEED_BYTE`: held while RB is full, and then nothing changes; else the byte is appended (R56, R101). -/
def feedOne (b : Byte) (s : State) : State :=
  if hasRoom s then respond .ok (append [b] s) else s

/-- A frame leaves ENC for the outbound flow to write (R40, R145). -/
def sendOut (bytes : List Byte) (s : State) : State := { s with encOut := s.encOut ++ [bytes] }

/-- RESET: DEC takes its reset values; ENC, the parameters and what the host does next are not affected. The records
IN and OUT count from the reset, and no command has been answered since it (R35, R170; log entries 3 and 5). -/
def resetDec (s : State) : State :=
  { clearStatus s with
    rb := [], fed := 0, consumed := 0, emitted := 0, inStream := [], out := [], rsp := none }

end Sys2Proof.Machine
end

