-- ==== Sys2Proof/Machine/Decoder.lean ====
section
/-! DEFINITION. The meanings of DEC's commands (40_decoder_ops.md R101 to R103, 30_encoding.md R84). Every one answers
a next state: a fault of the block is a response (60_exceptions.md R189), and a hold changes nothing (R56). -/

namespace Sys2Proof.Machine

/-- FEED_BYTE(b) (R101). -/
def execFeedByte (b : Byte) (s : State) : Host.Outcome State Fault Refusal := .next (feedOne b s)

/-- FEED_EOF: always raises StreamClosed, whatever is buffered; `data` is ignored (R83, R102). -/
def execFeedEof (_data : Byte) (s : State) : Host.Outcome State Fault Refusal :=
  .next (raise .streamClosed s)

/-- EXTRACT: one pass of the drain loop over the header at the head of RB; `data` is ignored (R83, R103). -/
def execExtract (_data : Byte) (s : State) : Host.Outcome State Fault Refusal :=
  .next (drainPass (be16 (peek4 s) 0) (be16 (peek4 s) 2) s)

/-- The reserved command: no state changes, the response is REFUSED (R84). -/
def execReservedCmd (_data : Byte) (s : State) : Host.Outcome State Fault Refusal :=
  .next (respond .refused s)

end Sys2Proof.Machine
end

