-- ==== Sys2Proof/Machine/Encoder.lean ====
section
/-! DEFINITION. The meaning of ENC's one operation (41_encoder_ops.md R140 to R150). -/

namespace Sys2Proof.Machine

/-- ENCODE(type, payload): one whole frame goes out; no state of DEC is read or written, nothing fails (R140, R145). -/
def execEncode (type : Half) (payload : List Byte) (s : State) : Host.Outcome State Fault Refusal :=
  .next (sendOut (encodeFrame s.cfg.maxPayload type payload) s)

end Sys2Proof.Machine
end

