-- ==== Sys2Proof/Machine/Frames.lean ====
section
/-! DEFINITION. The meanings of the frame kinds, the instructions of the incoming stream (42_frame_types.md R160 to
R167): what DEC does when a header of that kind stands at the head of RB. Every kind is one pass of the drain loop with
its own header fields, since "the hardware compares `length` with `MAX_LENGTH_FIELD`" (R79) and the type plays no part
in DEC (R81, R160, R167). As with any instruction, a meaning is applied to the fields of the instruction and does not
look again for its header in RB; the machine reaches it through EXTRACT, which reads those fields from RB (log
entry 6). -/

namespace Sys2Proof.Machine

/-- ILLEGAL_LENGTH_LOW (R167). -/
def execIllegalLengthLow (length type : Half) (s : State) : Host.Outcome State Fault Refusal :=
  .next (drainPass length type s)

/-- ILLEGAL_LENGTH_HIGH, block `0x0403` (R79, R167). -/
def execIllegalLengthHigh0403 (length type : Half) (s : State) : Host.Outcome State Fault Refusal :=
  .next (drainPass length type s)

/-- ILLEGAL_LENGTH_HIGH, block `0x0404` (R79, R167). -/
def execIllegalLengthHigh0404 (length type : Half) (s : State) : Host.Outcome State Fault Refusal :=
  .next (drainPass length type s)

/-- ILLEGAL_LENGTH_HIGH, block `0x0408` (R79, R167). -/
def execIllegalLengthHigh0408 (length type : Half) (s : State) : Host.Outcome State Fault Refusal :=
  .next (drainPass length type s)

/-- ILLEGAL_LENGTH_HIGH, block `0x0410` (R79, R167). -/
def execIllegalLengthHigh0410 (length type : Half) (s : State) : Host.Outcome State Fault Refusal :=
  .next (drainPass length type s)

/-- ILLEGAL_LENGTH_HIGH, block `0x0420` (R79, R167). -/
def execIllegalLengthHigh0420 (length type : Half) (s : State) : Host.Outcome State Fault Refusal :=
  .next (drainPass length type s)

/-- ILLEGAL_LENGTH_HIGH, block `0x0440` (R79, R167). -/
def execIllegalLengthHigh0440 (length type : Half) (s : State) : Host.Outcome State Fault Refusal :=
  .next (drainPass length type s)

/-- ILLEGAL_LENGTH_HIGH, block `0x0480` (R79, R167). -/
def execIllegalLengthHigh0480 (length type : Half) (s : State) : Host.Outcome State Fault Refusal :=
  .next (drainPass length type s)

/-- ILLEGAL_LENGTH_HIGH, block `0x0500` (R79, R167). -/
def execIllegalLengthHigh0500 (length type : Half) (s : State) : Host.Outcome State Fault Refusal :=
  .next (drainPass length type s)

/-- ILLEGAL_LENGTH_HIGH, block `0x0600` (R79, R167). -/
def execIllegalLengthHigh0600 (length type : Half) (s : State) : Host.Outcome State Fault Refusal :=
  .next (drainPass length type s)

/-- ILLEGAL_LENGTH_HIGH, block `0x0800` (R79, R167). -/
def execIllegalLengthHigh0800 (length type : Half) (s : State) : Host.Outcome State Fault Refusal :=
  .next (drainPass length type s)

/-- ILLEGAL_LENGTH_HIGH, block `0x1000` (R79, R167). -/
def execIllegalLengthHigh1000 (length type : Half) (s : State) : Host.Outcome State Fault Refusal :=
  .next (drainPass length type s)

/-- ILLEGAL_LENGTH_HIGH, block `0x2000` (R79, R167). -/
def execIllegalLengthHigh2000 (length type : Half) (s : State) : Host.Outcome State Fault Refusal :=
  .next (drainPass length type s)

/-- ILLEGAL_LENGTH_HIGH, block `0x4000` (R79, R167). -/
def execIllegalLengthHigh4000 (length type : Half) (s : State) : Host.Outcome State Fault Refusal :=
  .next (drainPass length type s)

/-- ILLEGAL_LENGTH_HIGH, block `0x8000` (R79, R167). -/
def execIllegalLengthHigh8000 (length type : Half) (s : State) : Host.Outcome State Fault Refusal :=
  .next (drainPass length type s)

/-- CHAT (R161). -/
def execChat (length : Half) (s : State) : Host.Outcome State Fault Refusal :=
  .next (drainPass length typeChat s)

/-- JOIN_ROOM (R162). -/
def execJoinRoom (length : Half) (s : State) : Host.Outcome State Fault Refusal :=
  .next (drainPass length typeJoinRoom s)

/-- LEAVE_ROOM (R163). -/
def execLeaveRoom (length : Half) (s : State) : Host.Outcome State Fault Refusal :=
  .next (drainPass length typeLeaveRoom s)

/-- OPAQUE: any other type, passed through (R164). -/
def execOpaqueFrame (length type : Half) (s : State) : Host.Outcome State Fault Refusal :=
  .next (drainPass length type s)

end Sys2Proof.Machine
end

