-- ==== Sys2Proof/Machine/Dispatch.lean ====
section
/-! DEFINITION. The dispatch: one arm per constructor of Instr, each one direct call of its meaning. -/

namespace Sys2Proof.Machine

def exec (i : Instr) (s : State) : Host.Outcome State Fault Refusal :=
  match i with
  -- DEC commands (40_decoder_ops.md, 30_encoding.md R84)
  | .feedByte b => Sys2Proof.Machine.execFeedByte b s
  | .feedEof data => Sys2Proof.Machine.execFeedEof data s
  | .extract data => Sys2Proof.Machine.execExtract data s
  | .reservedCmd data => Sys2Proof.Machine.execReservedCmd data s
  -- ENC (41_encoder_ops.md)
  | .encode type payload => Sys2Proof.Machine.execEncode type payload s
  -- frame kinds (42_frame_types.md)
  | .illegalLengthLow length type => Sys2Proof.Machine.execIllegalLengthLow length type s
  | .illegalLengthHigh0403 length type => Sys2Proof.Machine.execIllegalLengthHigh0403 length type s
  | .illegalLengthHigh0404 length type => Sys2Proof.Machine.execIllegalLengthHigh0404 length type s
  | .illegalLengthHigh0408 length type => Sys2Proof.Machine.execIllegalLengthHigh0408 length type s
  | .illegalLengthHigh0410 length type => Sys2Proof.Machine.execIllegalLengthHigh0410 length type s
  | .illegalLengthHigh0420 length type => Sys2Proof.Machine.execIllegalLengthHigh0420 length type s
  | .illegalLengthHigh0440 length type => Sys2Proof.Machine.execIllegalLengthHigh0440 length type s
  | .illegalLengthHigh0480 length type => Sys2Proof.Machine.execIllegalLengthHigh0480 length type s
  | .illegalLengthHigh0500 length type => Sys2Proof.Machine.execIllegalLengthHigh0500 length type s
  | .illegalLengthHigh0600 length type => Sys2Proof.Machine.execIllegalLengthHigh0600 length type s
  | .illegalLengthHigh0800 length type => Sys2Proof.Machine.execIllegalLengthHigh0800 length type s
  | .illegalLengthHigh1000 length type => Sys2Proof.Machine.execIllegalLengthHigh1000 length type s
  | .illegalLengthHigh2000 length type => Sys2Proof.Machine.execIllegalLengthHigh2000 length type s
  | .illegalLengthHigh4000 length type => Sys2Proof.Machine.execIllegalLengthHigh4000 length type s
  | .illegalLengthHigh8000 length type => Sys2Proof.Machine.execIllegalLengthHigh8000 length type s
  | .chat length => Sys2Proof.Machine.execChat length s
  | .joinRoom length => Sys2Proof.Machine.execJoinRoom length s
  | .leaveRoom length => Sys2Proof.Machine.execLeaveRoom length s
  | .opaqueFrame length type => Sys2Proof.Machine.execOpaqueFrame length type s

end Sys2Proof.Machine
end

