-- ==== Sys2Proof/Machine/Fetch.lean ====
section
/-! DEFINITION. Where the next operation comes from: the host's events, in order (00_scope.md R10, 20_memory.md R51,
R54). The block fetches nothing on its own (10_state.md R35); a frame kind is fetched by EXTRACT from the head of RB
(R27, R81). -/

namespace Sys2Proof.Machine

/-- What the next event asks for. -/
inductive Fetched where
  | idle
  | reset
  | run (i : Instr)
  | refuse (why : Refusal)
  deriving DecidableEq, Repr

/-- An ENC request runs ENCODE if its payload can be presented (R8, R140); an absent payload is empty (R142). -/
def fetchEncode (s : State) (type : Half) (payload : Option (List Byte)) : Fetched :=
  if s.cfg.encInMax.admits (payloadOperand payload).length then
    .run (.encode type (payloadOperand payload))
  else .refuse .payloadNotPresentable

/-- The next operation: none when the host offers nothing (R201); RESET, whatever is offered with it (R170); a command
word, decoded (R82); an ENC request (R87); two issuers at once are refused (R216). -/
def fetch (s : State) : Fetched :=
  match s.inputs with
  | [] => .idle
  | .rst _ :: _ => .reset
  | .cmd w :: _ => .run (decodeCmd w)
  | .clash _ _ :: _ => .refuse .twoIssuers
  | .encRequest type payload :: _ => fetchEncode s type payload

/-- The instant passes: the event is used up. A FEED_BYTE that was held must be offered again (R59, log entry 4). -/
def popInput (s : State) : State := { s with inputs := s.inputs.tail }

/-- The bytes of a whole frame with this header: the header, then a payload of zeros if `length` is legal. -/
def zeroFrame (c : Config) (length type : Half) : List Byte :=
  headerBytes length type ++
    List.replicate (if legalLength c length then frameTotal length - headerSize else 0) 0

/-- The stream with `bytes` written over the head of RB, the records of what was fed kept true of it. -/
def placeAtHead (bytes : List Byte) (s : State) : State :=
  let rb := bytes ++ s.rb.drop bytes.length
  { s with
    rb := rb
    fed := s.consumed + rb.length
    inStream := s.inStream.take s.consumed ++ rb }

/-- The state whose next step runs the encoded instruction: a command or an ENC request is offered next; a frame is
put at the head of RB and EXTRACT, which fetches it, is offered next. -/
def placeEncoding (e : Encoding) (s : State) : State :=
  match e with
  | .cmd w => { s with inputs := .cmd w :: s.inputs }
  | .encReq type payload => { s with inputs := .encRequest type (some payload) :: s.inputs }
  | .stream bytes =>
    { placeAtHead (zeroFrame s.cfg (be16 bytes 0) (be16 bytes 2)) s with
      inputs := .cmd (cmdWord 2 0) :: s.inputs }

end Sys2Proof.Machine
end

