-- ==== Sys2Proof/Machine/Step.lean ====
section
/-! DEFINITION. One step of the machine: the next event of the host is performed, wholly or not at all (20_memory.md
R46). The block does nothing on its own (R201, R221). -/

namespace Sys2Proof.Machine

/-- One step: nothing offered, nothing changes; RESET; an instruction, by `exec`; or a refusal. -/
def step (s : State) : Host.Outcome State Fault Refusal :=
  match fetch s with
  | .idle => .next s
  | .reset => .next (resetDec (popInput s))
  | .run i => exec i (popInput s)
  | .refuse why => .refused why

/-- `s` with the table word's instruction stored where `step` fetches its next one; a word that is none of the
table's changes nothing. -/
def State.withFetchWord (s : State) (nbits w : Nat) : State :=
  match tableEncoding nbits w with
  | none => s
  | some e => placeEncoding e s

end Sys2Proof.Machine
end

