-- ==== Sys2Proof/Machine/Ports.lean ====
section
/-! DEFINITION. What the host sees of the block at transaction level (20_memory.md R59): the response code and what
it carries, the readiness of the command port, the cause codes of the faults (30_encoding.md R85, R86). `status` and
`fault` are in Flags.lean. The serialisation of a payload on wires is the open parameter OUT_BINDING and is not
modelled (D14). -/

namespace Sys2Proof.Machine

/-- `rsp_code[2:0]` of a response (R85). -/
def Response.code : Response → BitVec 3
  | .ok => 0
  | .streamClosed => 1
  | .protocolViolation _ _ => 2
  | .frame _ => 4
  | .stall => 5
  | .refused => 7

/-- The cause code of a fatal condition; TransportError has one, which the block never gives (R86, R180, R183). -/
def FatalCondition.causeCode : FatalCondition → BitVec 3
  | .streamClosed => 1
  | .protocolViolation => 2
  | .transportError => 3

/-- The fatal condition a response reports, if it is a fault (R85, R180, R185). -/
def Response.fatal : Response → Option FatalCondition
  | .ok => none
  | .streamClosed => some .streamClosed
  | .protocolViolation _ _ => some .protocolViolation
  | .frame _ => none
  | .stall => none
  | .refused => none

/-- `rsp_valid`: the response to the last accepted command is present (R59). -/
def rspValid (s : State) : Bool := s.rsp.isSome

/-- `rsp_code`, while `rsp_valid` (R59). -/
def rspCode (s : State) : Option (BitVec 3) := s.rsp.map Response.code

/-- The header a response carries: of the Frame, or the offending one (R59, R85). -/
def Response.header : Response → Option (Half × Half)
  | .ok => none
  | .streamClosed => none
  | .protocolViolation length type => some (length, type)
  | .frame f => some (f.length, f.type)
  | .stall => none
  | .refused => none

/-- `rsp_length` and `rsp_type`, where the response has a header (R59). -/
def rspHeader (s : State) : Option (Half × Half) := s.rsp.bind Response.header

/-- The payload bytes of the Frame delivered, in order (R59). -/
def rspPayload (s : State) : Option (List Byte) :=
  match s.rsp with
  | some (.frame f) => some f.payload
  | _ => none

/-- `cmd_ready` for an offered command: low only for a FEED_BYTE while RB is full (R56, R59, C12). At transaction
level no earlier command is ever in progress (R46). -/
def cmdReady (s : State) (w : CmdWord) : Bool := !(w &&& 0x300#10 == 0x000#10) || hasRoom s

end Sys2Proof.Machine
end

