-- ==== Sys2Proof/Machine/Pseudo.lean ====
section
/-! DEFINITION. The document's operations as expansions into instructions (30_encoding.md R89, 40_decoder_ops.md R104
to R106): `feed`, `drain`, `decode`, `encode`, and the inbound flow's way round a hold (20_memory.md R57). They are
operations of the host, not of the block, and run the block through `exec` alone. -/

namespace Sys2Proof.Machine

/-- The state after one instruction. Every instruction answers a next state (a statement of its own says so); were one
to stop, the state would stay. -/
def perform (i : Instr) (s : State) : State :=
  match exec i s with
  | .next t => t
  | .fault _ => s
  | .refused _ => s

/-- The state after a sequence of instructions. -/
def performAll : List Instr → State → State
  | [], s => s
  | i :: is, s => performAll is (perform i s)

/-- `feed(chunk)`: FEED_EOF for an empty or absent chunk, else one FEED_BYTE a byte (R89, R104). -/
def feedExpansion (chunk : Option (List Byte)) : List Instr :=
  match chunk.getD [] with
  | [] => [.feedEof 0]
  | b :: bs => (b :: bs).map .feedByte

/-- `feed(chunk)` as the document has it, with no EXTRACT between (R104). -/
def feed (chunk : Option (List Byte)) (s : State) : State := performAll (feedExpansion chunk) s

/-- How a `drain()` ends: after a STALL, or failing with ProtocolViolation (R105). `unfinished` would be a drain that
had to stop short of either; a statement says it does not happen. -/
inductive DrainEnd where
  | stall
  | violation (length type : Half)
  | unfinished
  deriving DecidableEq, Repr

/-- What a `drain()` gives: the Frames yielded, in order, how it ended, and the state it leaves. -/
structure Drained where
  frames : List Frame
  ending : DrainEnd
  state : State
  deriving DecidableEq, Repr

/-- At most `n` passes of the loop of R105. -/
def drainUpTo : Nat → State → Drained
  | 0, s => ⟨[], .unfinished, s⟩
  | n + 1, s =>
    let t := perform (.extract 0) s
    match t.rsp with
    | some (.frame f) =>
      let rest := drainUpTo n t
      ⟨f :: rest.frames, rest.ending, rest.state⟩
    | some .stall => ⟨[], .stall, t⟩
    | some (.protocolViolation length type) => ⟨[], .violation length type, t⟩
    | _ => ⟨[], .unfinished, t⟩

/-- `drain()`: EXTRACT repeated while it returns FRAME (R105); over `n` bytes at most `floor(n / 4) + 1` EXTRACTs
(R107). -/
def drain (s : State) : Drained := drainUpTo (s.rb.length / headerSize + 1) s

/-- How an inbound flow's feeding ends: every byte accepted, the empty chunk's StreamClosed (R104), or a byte held that
no EXTRACT can make room for (R58). -/
inductive FeedEnd where
  | accepted
  | streamClosed
  | heldForEver (rest : List Byte)
  deriving DecidableEq, Repr

/-- The inbound flow feeds the bytes of a chunk: where a FEED_BYTE is held it issues EXTRACT and then goes on (R57, R104).
One EXTRACT that delivers frees at least 4 bytes; one that does not never will (R57, R58). -/
def feedFlow : List Byte → State → FeedEnd × State
  | [], s => (.accepted, s)
  | b :: bs, s =>
    let s' := if hasRoom s then s else perform (.extract 0) s
    if hasRoom s' then feedFlow bs (perform (.feedByte b) s') else (.heldForEver (b :: bs), s')

/-- `feed(chunk)` by an inbound flow that meets holds: FEED_EOF for an empty or absent chunk, which fails with
StreamClosed, else the bytes of the chunk (R104). -/
def feedChunk (chunk : Option (List Byte)) (s : State) : FeedEnd × State :=
  match chunk.getD [] with
  | [] => (.streamClosed, perform (.feedEof 0) s)
  | b :: bs => feedFlow (b :: bs) s

/-- `decode(bytes)` on a decoder of its own: `RESET; feed(bytes); drain()` (R106). Its value is every Frame yielded,
those an EXTRACT yielded during a hold among them; they are what OUT holds, which RESET emptied. -/
def decodeBytes (bytes : List Byte) (s : State) : Drained :=
  let d := drain (feedChunk (some bytes) (resetDec s)).2
  { d with frames := d.state.out }

/-- What the inbound flow issues while it parses: FEED_BYTE and EXTRACT, in any order (R10, R107). -/
inductive InboundOp where
  | feed (b : Byte)
  | extract
  deriving DecidableEq, Repr

/-- The instruction an inbound operation is. -/
def InboundOp.instr : InboundOp → Instr
  | .feed b => .feedByte b
  | .extract => .extract 0

/-- The state after a sequence of inbound operations. -/
def performInbound (ops : List InboundOp) (s : State) : State := performAll (ops.map InboundOp.instr) s

/-- The bytes a sequence of inbound operations feeds, in order. -/
def fedBytes : List InboundOp → List Byte
  | [] => []
  | .feed b :: ops => b :: fedBytes ops
  | .extract :: ops => fedBytes ops

/-- Every FEED_BYTE of the sequence finds room at its moment (R114). -/
def allAccepted : List InboundOp → State → Bool
  | [], _ => true
  | .feed b :: ops, s => hasRoom s && allAccepted ops (perform (.feedByte b) s)
  | .extract :: ops, s => allAccepted ops (perform (.extract 0) s)

/-- `encode(type, payload)` is ENCODE (R89). -/
def encodeExpansion (type : Half) (payload : Option (List Byte)) : List Instr :=
  [.encode type (payloadOperand payload)]

end Sys2Proof.Machine
end

