-- ==== Sys2Proof/Machine/Run.lean ====
section
/-! DEFINITION. Runs of DEC and how they end (70_reset_and_hazards.md R222): the operations from one RESET to the next,
when a run is over, when it has ended well or badly, and what its result is. -/

namespace Sys2Proof.Machine

/-- A run of DEC: the operations the host issues from one RESET to the next, on an instance with parameters `cfg`. -/
structure Run where
  cfg : Config
  ops : List Instr
  deriving DecidableEq, Repr

/-- The state the RESET at its beginning leaves (R35). -/
def Run.start (r : Run) : State := { State.reset with cfg := r.cfg }

/-- The state after its last operation. -/
def Run.final (r : Run) : State := performAll r.ops r.start

/-- Whether an EXTRACT has answered STALL since the last byte was accepted, which is how a `drain()` issued after the
last FEED_BYTE ends normally (R105). `stands` says so of the operations before: an accepted byte makes it false, a STALL
makes it true, and nothing else touches it (log entry 8). -/
def drainStands : List Instr → State → Bool → Bool
  | [], _, stands => stands
  | i :: is, s, stands =>
    let t := perform i s
    drainStands is t (t.fed == s.fed && (stands || t.rsp == some .stall))

/-- A `drain()` issued after the last FEED_BYTE has ended with STALL (R222). -/
def Run.drained (r : Run) : Bool := drainStands r.ops r.start false

/-- The run has ended well: the peer closed, no violation, and a last drain ended with STALL (R222). -/
def Run.endedWell (r : Run) : Bool := r.final.closed && !r.final.viol && r.drained

/-- The run has ended badly (R222). -/
def Run.endedBadly (r : Run) : Bool := r.final.viol

/-- The result of a run, by how it ended: the Frames delivered and the leftover RB; the Frames delivered before the
violation and its header; or, stopped in any other state, the Frames delivered so far (R222). -/
inductive RunResult where
  | endedWell (frames : List Frame) (leftover : List Byte)
  | endedBadly (frames : List Frame) (length type : Half)
  | stopped (frames : List Frame)
  deriving DecidableEq, Repr

/-- The result of a run; the violation's header is still the one the header view shows (R184, R222). -/
def Run.result (r : Run) : RunResult :=
  if r.endedBadly then .endedBadly r.final.out (hdrLength r.final) (hdrType r.final)
  else if r.endedWell then .endedWell r.final.out r.final.rb
  else .stopped r.final.out

/-- The DEC operations the host's events hold before the next RESET. An ENC request is none of DEC's; of two issuers
at once both have issued one. -/
def operationsToCome : List HostEvent → List Instr
  | [] => []
  | .rst _ :: _ => []
  | .cmd w :: es => decodeCmd w :: operationsToCome es
  | .clash v w :: es => decodeCmd v :: decodeCmd w :: operationsToCome es
  | .encRequest _ _ :: es => operationsToCome es

/-- The run is over: the host issues no further operation before the next RESET (R222). -/
def runOver (s : State) : Bool := (operationsToCome s.inputs).isEmpty

/-- The run that begins in a state RESET has just left: all the operations up to the next RESET. -/
def Run.of (s : State) : Run := ⟨s.cfg, operationsToCome s.inputs⟩

/-- `n` steps of the machine, stopping at the first that answers no next state. -/
def steps : Nat → State → Host.Outcome State Fault Refusal
  | 0, s => .next s
  | n + 1, s =>
    match step s with
    | .next t => steps n t
    | .fault why => .fault why
    | .refused why => .refused why

end Sys2Proof.Machine
end

