-- ==== Sys2Proof/Safety.lean ====
section
/-! DEFINITION. What holds of every reachable state (10_state.md R34). What it is for a run to have ended is in
Machine/Run.lean. -/

namespace Sys2Proof.Machine

/-- The next EXTRACT delivers nothing and raises nothing: fewer than 4 bytes, or a legal header whose frame is not yet
whole (R34 item 6). -/
def AtRest (s : State) : Prop :=
  s.rb.length < headerSize ∨ (hdrLegal s = true ∧ s.rb.length < hdrTotal s)

/-- An illegal header stands at the head of RB (R34 item 5). -/
def Violating (s : State) : Prop := headerSize ≤ s.rb.length ∧ hdrLegal s = false

/-- The bytes of a sequence of Frames on the wire, packed (R44, R70). -/
def wireOf (frames : List Frame) : List Byte := frames.flatMap Frame.wire

/-- The invariant of R34, over the records of the spaces IN and OUT. Items 3 and 4 are one equation: the bytes
accepted are the delivered Frames' bytes, then RB. -/
structure StateInv (s : State) : Prop where
  /-- The parameters are ones an instance may have (R7, R8). -/
  cfgValid : s.cfg.valid = true
  /-- Item 1: `len(RB) <= RB_CAP`. -/
  withinCap : s.cfg.rbCap.admits s.rb.length = true
  /-- Items 3 and 4, and R112: no byte skipped, none delivered twice. -/
  stream : s.inStream = wireOf s.out ++ s.rb
  /-- Every Frame delivered is a Frame (R14). -/
  framesWf : ∀ f ∈ s.out, f.wf s.cfg = true
  /-- R28: `FED` counts the bytes accepted. -/
  fedCount : s.fed = s.inStream.length
  /-- R28, item 2: `CONSUMED` counts the bytes removed. -/
  consumedCount : s.consumed = (wireOf s.out).length
  /-- R28: `EMITTED` counts the Frames. -/
  emittedCount : s.emitted = s.out.length
  /-- Item 5: a violation is recorded only while the illegal header stands at the head. -/
  violHead : s.viol = true → Violating s
  /-- Item 6: after an EXTRACT that returned STALL. -/
  stallRest : s.rsp = some .stall → AtRest s

end Sys2Proof.Machine
end

