-- ==== Sys2Proof/Certificates/Slice0/Obligations.lean ====
section
/-! DEFINITION. The statements for the provers, in the order: encoding; one instruction at a time; a step; invariants
and whole-machine rules; the document's own properties. -/

open Sys2Proof Sys2Proof.Machine

/-! ### Encoding -/

/-- Decoding the encoding of a well-formed instruction gives it back, with every operand. Derived: the encodings of
R70, R77, R79, R82, R87 and the try order of R90 drop no bit and send no word to a neighbour. -/
def Obligations.DecodeOfEncodeIsTheInstruction : Prop :=
  ∀ (c : Config) (i : Instr), i.wellFormed c = true → decode (encode i) = .instr i

/-- Encoding what was decoded gives the encoding back: of a command all ten bits, of a stream the four header bytes;
what the decoder answers is well formed, and only a stream shorter than a header is rejected. Derived (R71, R82, R90). -/
def Obligations.EncodeOfDecodedIsTheEncoding : Prop :=
  (∀ w : CmdWord, encode (decodeCmd w) = .cmd w) ∧
  (∀ (c : Config) (bytes : List Byte), 4 ≤ bytes.length → ∃ i, decode (.stream bytes) = .instr i ∧
    encode i = .stream (bytes.take 4) ∧ i.wellFormed c = true ∧ i.header = some (be16 bytes 0, be16 bytes 2)) ∧
  (∀ bytes : List Byte, bytes.length < 4 → decode (.stream bytes) = .rejected .headerNotBuffered)

/-- The table's rows and the numeric condition say the same: a header word decodes to an illegal kind exactly when its
`length` is below 2 or above 1026; the fourteen high rows exclude one another and together are exactly `1027..65535`;
and to the assigned kinds and OPAQUE by the type. Derived (R77, R79 and R90; R79 is an inference of the spec's). -/
def Obligations.TableRowsPartitionTheHeaders : Prop :=
  (∀ H : HeaderWord, (decodeHeader H).isIllegalHeader = true ↔
    (wordLength H).toNat < 2 ∨ 1026 < (wordLength H).toNat) ∧
  illegalHighRows.Pairwise (fun r q => ∀ H : HeaderWord, ¬ (r.selects H = true ∧ q.selects H = true)) ∧
  (∀ H : HeaderWord, (∃ r ∈ illegalHighRows, r.selects H = true) ↔ 1027 ≤ (wordLength H).toNat) ∧
  (∀ H : HeaderWord, 2 ≤ (wordLength H).toNat → (wordLength H).toNat ≤ 1026 →
    (decodeHeader H = .chat (wordLength H) ↔ (wordType H).toNat = 1) ∧
    (decodeHeader H = .joinRoom (wordLength H) ↔ (wordType H).toNat = 2) ∧
    (decodeHeader H = .leaveRoom (wordLength H) ↔ (wordType H).toNat = 3) ∧
    (decodeHeader H = .opaqueFrame (wordLength H) (wordType H) ↔ (wordType H).toNat = 0 ∨ 4 ≤ (wordType H).toNat))

/-- Words written out from the spec's encodings decode to the instructions they stand for: the command words of item
V5 and the header words of item V4 and R91. Derived (R82, R77, R79). -/
def Obligations.WrittenOutWordsDecode : Prop :=
  decode (.cmd 0b0001101000) = .instr (.feedByte 0x68) ∧
  decode (.cmd 0b0100000000) = .instr (.feedEof 0) ∧
  decode (.cmd 0b1011111111) = .instr (.extract 0xFF) ∧
  decode (.cmd 0b1100000000) = .instr (.reservedCmd 0) ∧
  decode (.encReq 0x1234 [0xAA, 0xBB]) = .instr (.encode 0x1234 [0xAA, 0xBB]) ∧
  decode (.stream [0x00, 0x07, 0x00, 0x01]) = .instr (.chat 7) ∧
  decode (.stream [0x00, 0x02, 0x00, 0x02]) = .instr (.joinRoom 2) ∧
  decode (.stream [0x04, 0x02, 0x00, 0x03]) = .instr (.leaveRoom 1026) ∧
  decode (.stream [0x04, 0x02, 0xFF, 0xFF]) = .instr (.opaqueFrame 1026 0xFFFF) ∧
  decode (.stream [0x00, 0x00, 0x00, 0x01]) = .instr (.illegalLengthLow 0 1) ∧
  decode (.stream [0x04, 0x03, 0x00, 0x01]) = .instr (.illegalLengthHigh0403 1027 1) ∧
  decode (.stream [0x80, 0x00, 0x00, 0x03]) = .instr (.illegalLengthHigh8000 32768 3)

/-- Both header fields are big-endian: writing puts the more significant byte first, and reading gives
`S[0] * 256 + S[1]` and `S[2] * 256 + S[3]`. R42. -/
def Obligations.HeaderFieldsAreBigEndian : Prop :=
  (∀ length type : Half, (headerBytes length type).map BitVec.toNat =
    [length.toNat / 256, length.toNat % 256, type.toNat / 256, type.toNat % 256]) ∧
  (∀ (b₀ b₁ b₂ b₃ : Byte) (S : List Byte),
    (be16 (b₀ :: b₁ :: b₂ :: b₃ :: S) 0).toNat = b₀.toNat * 256 + b₁.toNat ∧
    (be16 (b₀ :: b₁ :: b₂ :: b₃ :: S) 2).toNat = b₂.toNat * 256 + b₃.toNat)

/-! ### One instruction at a time -/

/-- FEED_BYTE: with room, the byte joins RB, FED counts it, the response is OK, and nothing else changes (the model's
record of IN, log entry 3, is left out of the equation); with `len(RB) = RB_CAP` it is held and nothing changes. R101. -/
def Obligations.FeedByteAppendsOrIsHeld : Prop :=
  ∀ (b : Byte) (s : State),
    (∀ w : CmdWord, w.toNat = b.toNat → decode (.cmd w) = .instr (.feedByte b)) ∧
    ((∀ n, s.cfg.rbCap = .finite n → s.rb.length < n) → ∃ t, exec (.feedByte b) s = .next t ∧
      { t with inStream := s.inStream } = { s with rb := s.rb ++ [b], fed := s.fed + 1, rsp := some .ok }) ∧
    (s.cfg.rbCap = .finite s.rb.length → exec (.feedByte b) s = .next s)

/-- FEED_EOF always raises StreamClosed: CLOSED is set, the response is STREAM_CLOSED, nothing else changes, whatever
is buffered and whatever the STATUS bits are. R102 (the bit CLOSED is the spec's decision D4). -/
def Obligations.FeedEofRaisesStreamClosed : Prop :=
  ∀ (data : Byte) (s : State),
    exec (.feedEof data) s = .next { s with closed := true, rsp := some .streamClosed } ∧
    (∀ w : CmdWord, w.toNat = 256 + data.toNat → decode (.cmd w) = .instr (.feedEof data))

/-- EXTRACT, by the bytes at the head of RB and in the order of its tests: fewer than 4 bytes, STALL; an illegal
`length`, ProtocolViolation, however little else is buffered; an incomplete frame, STALL; else the Frame is delivered
to OUT and its bytes are consumed. Everything else stays. R103, R110, R111, R187 (the bit VIOL is the spec's decision
D4). -/
def Obligations.ExtractFollowsItsFourTests : Prop :=
  ∀ (data : Byte) (s : State),
    (∀ w : CmdWord, w.toNat = 512 + data.toNat → decode (.cmd w) = .instr (.extract data)) ∧
    (s.rb.length < 4 → exec (.extract data) s = .next { s with rsp := some .stall }) ∧
    (∀ (b₀ b₁ b₂ b₃ : Byte) (rest : List Byte) (length type : Half), s.rb = b₀ :: b₁ :: b₂ :: b₃ :: rest →
      length.toNat = b₀.toNat * 256 + b₁.toNat → type.toNat = b₂.toNat * 256 + b₃.toNat →
      (length.toNat < 2 ∨ s.cfg.maxPayload + 2 < length.toNat → exec (.extract data) s = .next
        { s with viol := true, rsp := some (.protocolViolation length type) }) ∧
      (2 ≤ length.toNat → length.toNat ≤ s.cfg.maxPayload + 2 → s.rb.length < 2 + length.toNat →
        exec (.extract data) s = .next { s with rsp := some .stall }) ∧
      (2 ≤ length.toNat → length.toNat ≤ s.cfg.maxPayload + 2 → 2 + length.toNat ≤ s.rb.length →
        exec (.extract data) s = .next
          { s with
            rb := s.rb.drop (2 + length.toNat)
            consumed := s.consumed + (2 + length.toNat)
            out := s.out ++ [⟨length, type, rest.take (length.toNat - 2)⟩]
            emitted := s.emitted + 1
            rsp := some (.frame ⟨length, type, rest.take (length.toNat - 2)⟩) }))

/-- The reserved command `op = 11`: no state changes, the response is REFUSED, code 7. R84 (the spec's decision D20).
-/
def Obligations.ReservedCommandIsRefused : Prop :=
  ∀ (w : CmdWord) (s : State), w.toNat / 256 = 3 →
    exec (decodeCmd w) s = .next { s with rsp := some .refused } ∧ Response.code .refused = 7

/-- ENCODE returns one frame, byte by byte, and changes nothing else: the payload cut to `MAX_PAYLOAD` bytes, `length`
counting it and the two type bytes, both fields high byte first; an absent payload is the empty one. R140, R145. -/
def Obligations.EncodeReturnsOneFrame : Prop :=
  ∀ (type : Half) (payload : List Byte) (s : State), s.cfg.maxPayload + 2 ≤ 65535 →
    ∃ bytes : List Byte, exec (.encode type payload) s = .next { s with encOut := s.encOut ++ [bytes] } ∧
      bytes.map BitVec.toNat =
        [(2 + min payload.length s.cfg.maxPayload) / 256, (2 + min payload.length s.cfg.maxPayload) % 256,
          type.toNat / 256, type.toNat % 256] ++
        (payload.take s.cfg.maxPayload).map BitVec.toNat ∧
      payloadOperand (some payload) = payload ∧ payloadOperand none = []

/-- The four legal kinds of frame are one pass of the drain loop with their own header fields: STALL until
`2 + length` bytes are buffered, then the Frame, whatever the type; no STATUS bit is written. EXTRACT does the same
with any such header at the head of RB. At the table's `MAX_PAYLOAD = 1024`. Derived (R160 to R164): that a kind does
this with its own header fields, whatever stands at the head of RB, is the model's choice, log entry 6; the spec speaks
only of a header at the head. -/
def Obligations.LegalFrameKindsDeliver : Prop :=
  ∀ (i : Instr) (length type : Half) (s : State), s.cfg.maxPayload = 1024 →
    2 ≤ length.toNat → length.toNat ≤ 1026 →
    (i = .chat length ∧ type = 1) ∨ (i = .joinRoom length ∧ type = 2) ∨ (i = .leaveRoom length ∧ type = 3) ∨
      (i = .opaqueFrame length type ∧ type ≠ 1 ∧ type ≠ 2 ∧ type ≠ 3) →
    (s.rb.length < 2 + length.toNat → exec i s = .next { s with rsp := some .stall }) ∧
    (2 + length.toNat ≤ s.rb.length → exec i s = .next
      { s with
        rb := s.rb.drop (2 + length.toNat)
        consumed := s.consumed + (2 + length.toNat)
        out := s.out ++ [⟨length, type, (s.rb.drop 4).take (length.toNat - 2)⟩]
        emitted := s.emitted + 1
        rsp := some (.frame ⟨length, type, (s.rb.drop 4).take (length.toNat - 2)⟩) }) ∧
    (∀ data : Byte, s.rb.take 4 = headerBytes length type → exec (.extract data) s = exec i s)

/-- The fifteen illegal kinds raise ProtocolViolation with their `length` and `type` and set VIOL; nothing is
consumed and no payload byte is waited for. EXTRACT does the same to any such header at the head of RB. At the table's
`MAX_PAYLOAD = 1024`. Derived (R167, R79): that a kind does this with its own header fields, whatever stands at the
head of RB, is the model's choice, log entry 6; the spec speaks only of an EXTRACT that meets the header. -/
def Obligations.IllegalFrameKindsViolate : Prop :=
  ∀ (i : Instr) (length type : Half) (s : State), s.cfg.maxPayload = 1024 → i.wellFormed s.cfg = true →
    i.isIllegalHeader = true → i.header = some (length, type) → 4 ≤ s.rb.length →
    exec i s = .next { s with viol := true, rsp := some (.protocolViolation length type) } ∧
    (∀ data : Byte, s.rb.take 4 = headerBytes length type → exec (.extract data) s = exec i s)

/-- A fault does three things and no more: the operation ends with the fault as its response, the fault's own STATUS
bit is set, and RB, the counters and everything else stay. R189. -/
def Obligations.FaultDoesThreeThings : Prop :=
  ∀ (i : Instr) (s t : State) (r : Response) (k : FatalCondition),
    (∃ d, i = .feedEof d ∨ i = .extract d) ∨ i.header.isSome = true →
    exec i s = .next t → t.rsp = some r → r.fatal = some k →
    (k = .streamClosed ∧ t = { s with closed := true, rsp := some .streamClosed }) ∨
    (k = .protocolViolation ∧ ∃ l ty, r = .protocolViolation l ty ∧
      t = { s with viol := true, rsp := some (.protocolViolation l ty) })

/-- Every instruction answers a next state on every operand and in every state: no meaning ends in a fault or a
refusal. Derived: R189 (a fault of the block is a response), R56 (a hold changes nothing), R84, R145. -/
def Obligations.EveryInstructionAnswersANextState : Prop :=
  ∀ (i : Instr) (s : State), ∃ t, exec i s = .next t

/-- The `data` field of FEED_EOF and EXTRACT is ignored; FEED_BYTE's is taken as it is. R83. -/
def Obligations.IgnoredDataMakesNoDifference : Prop :=
  (∀ (d d' : Byte) (s : State), exec (.feedEof d) s = exec (.feedEof d') s ∧
    exec (.extract d) s = exec (.extract d') s) ∧
  (∀ w : CmdWord, w.toNat < 256 → ∃ b : Byte, decode (.cmd w) = .instr (.feedByte b) ∧ b.toNat = w.toNat)

/-- The payload is carried verbatim in both directions: `payload[i]` is the byte at offset `4 + i` of the frame. R43. -/
def Obligations.PayloadIsCarriedVerbatim : Prop :=
  (∀ (data : Byte) (s t : State) (f : Frame), exec (.extract data) s = .next t → t.rsp = some (.frame f) →
    f.payload.length = f.length.toNat - 2 ∧ ∀ i, i < f.length.toNat - 2 → f.payload[i]? = s.rb[4 + i]?) ∧
  (∀ (maxPayload : Nat) (type : Half) (payload : List Byte) (i : Nat), i < min payload.length maxPayload →
    (encodeFrame maxPayload type payload)[4 + i]? = payload[i]?)

/-- An EXTRACT that returns STALL or raises ProtocolViolation changes nothing in RB, the counters or the spaces, and
repeating it gives the same response and the same state. Derived (R47, R192). -/
def Obligations.ExtractWithoutAFrameIsIdempotent : Prop :=
  ∀ (data data' : Byte) (s t : State), exec (.extract data) s = .next t → (∀ f, t.rsp ≠ some (.frame f)) →
    exec (.extract data') t = .next t ∧ t.rb = s.rb ∧ t.fed = s.fed ∧ t.consumed = s.consumed ∧
      t.emitted = s.emitted ∧ t.out = s.out ∧ t.inStream = s.inStream

/-! ### A step -/

/-- The step runs the decoded instruction: the command on the port, or ENCODE with the request's operands, an absent
payload being the empty one; around it the step only uses the event up. Derived (R46, R82, R87; R142 is the spec's
decision D9). -/
def Obligations.StepRunsTheDecodedOperation : Prop :=
  (∀ (s : State) (w : CmdWord) (rest : List HostEvent) (i : Instr), s.inputs = .cmd w :: rest →
    decode (.cmd w) = .instr i → step s = exec i { s with inputs := rest }) ∧
  (∀ (s : State) (type : Half) (payload : List Byte) (rest : List HostEvent),
    s.inputs = .encRequest type (some payload) :: rest → s.cfg.encInMax.admits payload.length = true →
    step s = exec (.encode type payload) { s with inputs := rest }) ∧
  (∀ (s : State) (type : Half) (rest : List HostEvent), s.inputs = .encRequest type none :: rest →
    step s = exec (.encode type []) { s with inputs := rest })

/-- The stream's instruction is fetched by EXTRACT: when the four bytes at the frame boundary decode to a frame kind,
the step that takes an EXTRACT is that kind's meaning. Derived (R27, R81). -/
def Obligations.StepRunsTheFrameKindAtTheHead : Prop :=
  ∀ (s : State) (w : CmdWord) (rest : List HostEvent) (i : Instr), s.inputs = .cmd w :: rest → w.toNat / 256 = 2 →
    decode (.stream s.rb) = .instr i → step s = exec i { s with inputs := rest }

/-- RESET, whatever command is offered at the same instant: every piece of DEC's state takes its reset value, ENC's
output, the parameters and the later events stay. R170 says so of DEC and ENC (the spec's decision D12); that the
records IN and OUT and the response port are cleared with it is the model's choice (log entries 3 and 5). Derived. -/
def Obligations.ResetWinsAndClearsTheDecoder : Prop :=
  ∀ (s : State) (offered : Option CmdWord) (rest : List HostEvent), s.inputs = .rst offered :: rest →
    step s = .next
      { cfg := s.cfg, rb := [], closed := false, viol := false, fed := 0, consumed := 0, emitted := 0,
        inStream := [], out := [], rsp := none, encOut := s.encOut, inputs := rest }

/-- After reset, at the start and after every RESET: RB empty, both STATUS bits 0, the three counters 0. R35 (the
spec's decision D12). -/
def Obligations.ResetStateHasTheResetValues : Prop :=
  ∀ t : State,
    (t = State.reset ∨ ∃ s offered rest, s.inputs = .rst offered :: rest ∧ step s = .next t) →
    t.rb = [] ∧ t.closed = false ∧ t.viol = false ∧ t.fed = 0 ∧ t.consumed = 0 ∧ t.emitted = 0 ∧
      statusReg t = 0 ∧ faultOut t = false

/-- The block does nothing on its own, two issuers on the DEC port are refused, and so is an ENC payload longer than
`ENC_IN_MAX`; nothing else stops a step. Derived (R201, R216, U4). That the step refuses such a payload is the model's
choice, log entry 12: the spec gives the range of what can be presented and no refusal. -/
def Obligations.StepStopsOnlyOnMisuseOfThePorts : Prop :=
  (∀ s : State, s.inputs = [] → step s = .next s) ∧
  (∀ (s : State) (v w : CmdWord) (rest : List HostEvent), s.inputs = .clash v w :: rest →
    step s = .refused .twoIssuers) ∧
  (∀ (s : State) (type : Half) (payload : List Byte) (rest : List HostEvent),
    s.inputs = .encRequest type (some payload) :: rest → s.cfg.encInMax.admits payload.length = false →
    step s = .refused .payloadNotPresentable) ∧
  (∀ s : State, (∀ v w rest, s.inputs ≠ .clash v w :: rest) →
    (∀ type payload rest, s.inputs = .encRequest type payload :: rest →
      s.cfg.encInMax.admits (payload.getD []).length = true) → ∃ t, step s = .next t)

/-- The command port: `cmd_ready` is low exactly when a FEED_BYTE is offered to a full RB; a step takes a command
offered while it is high and answers it, and leaves everything but the used-up event alone while it is low. Derived
(R56, R59, R85; that a held offer is used up is the model's choice, log entry 4). -/
def Obligations.CommandIsAnsweredExactlyWhenReady : Prop :=
  ∀ (s : State) (w : CmdWord) (rest : List HostEvent), s.cfg.rbCap.admits s.rb.length = true →
    s.inputs = .cmd w :: rest →
    (cmdReady s w = false ↔ w.toNat / 256 = 0 ∧ s.cfg.rbCap = .finite s.rb.length) ∧
    (cmdReady s w = false → step s = .next { s with inputs := rest }) ∧
    (cmdReady s w = true → ∃ t r, step s = .next t ∧ t.rsp = some r ∧ t.inputs = rest ∧
      r.code ≠ 3 ∧ r.code ≠ 6 ∧ (w.toNat / 256 = 0 → r.code = 0) ∧ (w.toNat / 256 = 1 → r.code = 1) ∧
      (w.toNat / 256 = 2 → r.code = 2 ∨ r.code = 4 ∨ r.code = 5) ∧ (w.toNat / 256 = 3 → r.code = 7))

/-- A word of the opcode table stored where `step` fetches its next instruction is what the step runs. Derived: the
model's own loader (log entry 7) over R71 and R82. -/
def Obligations.StoredTableWordIsRunNext : Prop :=
  ∀ (s : State) (nbits w : Nat) (i : Instr), decodeTableWord nbits w = some i →
    ∃ t, exec i { s.withFetchWord nbits w with inputs := s.inputs } = .next t ∧
      step (s.withFetchWord nbits w) = .next t

/-! ### Invariants and whole-machine rules -/

/-- The invariant of R34 holds after reset, and after the RESET of any state of an instance whose parameters are
valid. Derived (R34, R35). -/
def Obligations.InvariantHoldsAfterReset : Prop :=
  StateInv State.reset ∧ ∀ s : State, s.cfg.valid = true → StateInv (resetDec s)

/-- Every step that answers a next state keeps the invariant of R34, from every state that has it. Derived: R34 is the
spec's own inference from the operations. -/
def Obligations.EveryStepKeepsTheInvariant : Prop :=
  ∀ s t : State, StateInv s → step s = .next t → StateInv t

/-- Exactly once, nothing skipped: with `start(k)` the sum of the totals of the first `k` Frames delivered, Frame `k`
is the stream bytes from `start(k)` on, header then payload, its total is `2 + length`, and after the last Frame comes
`CONSUMED`. Derived (R112, itself derived from R103). -/
def Obligations.FramesTileTheStreamExactlyOnce : Prop :=
  ∀ s : State, StateInv s →
    ((s.out.map fun f => 2 + f.length.toNat).sum = s.consumed) ∧
    ∀ (k : Nat) (f : Frame), s.out[k]? = some f →
      (s.inStream.drop (((s.out.take k).map fun g => 2 + g.length.toNat).sum)).take (2 + f.length.toNat) =
        headerBytes f.length f.type ++ f.payload

/-- The counters and the buffer in every state with the invariant: `FED - CONSUMED = len(RB)`, RB is the stream from
`CONSUMED` on, and `4 * EMITTED <= CONSUMED <= MAX_FRAME_BYTES * EMITTED`. Derived (R28, R34). -/
def Obligations.CountersLocateTheBufferInTheStream : Prop :=
  ∀ s : State, StateInv s → s.consumed + s.rb.length = s.fed ∧ 4 * s.emitted ≤ s.consumed ∧
    s.consumed ≤ (s.cfg.maxPayload + 4) * s.emitted ∧
    ∀ k, s.consumed ≤ k → k < s.fed → s.inStream[k]? = s.rb[k - s.consumed]?

/-- Bytes enter RB only at the tail, one at a time by FEED_BYTE, and leave only from the head, a whole legal frame at
a time by EXTRACT, or all together by RESET; no byte in RB ever changes. Derived (R21, R45, R48). -/
def Obligations.BufferChangesOnlyAtItsEnds : Prop :=
  ∀ s t : State, step s = .next t →
    t.rb = s.rb ∨
    (∃ (b : Byte) (w : CmdWord) (rest : List HostEvent), s.inputs = .cmd w :: rest ∧
      decodeCmd w = .feedByte b ∧ t.rb = s.rb ++ [b]) ∨
    (∃ (w : CmdWord) (d : Byte) (rest : List HostEvent), s.inputs = .cmd w :: rest ∧ decodeCmd w = .extract d ∧
      hdrLegal s = true ∧ hdrTotal s ≤ s.rb.length ∧ t.rb = s.rb.drop (hdrTotal s)) ∨
    (∃ (offered : Option CmdWord) (rest : List HostEvent), s.inputs = .rst offered :: rest ∧ t.rb = [])

/-- The STATUS bits are sticky: a step other than RESET never clears one, CLOSED is set only by FEED_EOF, and VIOL
only by an EXTRACT that meets an illegal header at the head. Derived (R24, R191; the bits are the spec's decision D4). -/
def Obligations.StatusBitsAreStickyUntilReset : Prop :=
  ∀ s t : State, step s = .next t → (∀ offered rest, s.inputs ≠ .rst offered :: rest) →
    (s.closed = true → t.closed = true) ∧ (s.viol = true → t.viol = true) ∧
    (t.closed = true → s.closed = true ∨ ∃ w d rest, s.inputs = .cmd w :: rest ∧ decodeCmd w = .feedEof d) ∧
    (t.viol = true → s.viol = true ∨
      ∃ w d rest, s.inputs = .cmd w :: rest ∧ decodeCmd w = .extract d ∧ Violating s)

/-- No operation reads STATUS: with the two bits changed to anything, every instruction answers with the same state
but for those bits. Derived (R24, R123; the spec's decisions D4 and D19). -/
def Obligations.NoInstructionReadsTheStatusBits : Prop :=
  ∀ (i : Instr) (s : State) (c v : Bool), ∃ t t', exec i s = .next t ∧
    exec i { s with closed := c, viol := v } = .next t' ∧
    t' = { t with closed := t'.closed, viol := t'.viol }

/-- DEC and ENC are independent: an ENCODE and any other instruction, in either order, give the same state, and what
ENCODE returns does not depend on the state of DEC. R55 (no state is shared), R150. Derived. -/
def Obligations.DecoderAndEncoderCommute : Prop :=
  (∀ (i : Instr) (type : Half) (payload : List Byte) (s t u : State), (∀ ty p, i ≠ .encode ty p) →
    exec i s = .next t → exec (.encode type payload) t = .next u →
    ∃ t', exec (.encode type payload) s = .next t' ∧ exec i t' = .next u) ∧
  (∀ (type : Half) (payload : List Byte) (s s' t t' : State), s.cfg.maxPayload = s'.cfg.maxPayload →
    exec (.encode type payload) s = .next t → exec (.encode type payload) s' = .next t' →
    ∃ bytes, t.encOut = s.encOut ++ [bytes] ∧ t'.encOut = s'.encOut ++ [bytes])

/-- A violation stays: whatever operations of DEC and ENC follow, short of RESET, the header at the head is the same,
nothing more is delivered or consumed, and EXTRACT raises ProtocolViolation with the same `length` and `type`; and if
RB is full, every FEED_BYTE is held for ever. Derived (R58, R109, both the spec's inferences). -/
def Obligations.ViolationStaysUntilReset : Prop :=
  ∀ (ops : List Instr) (s : State), Violating s → (∀ i ∈ ops, i.header = none) →
    (performAll ops s).rb.take 4 = s.rb.take 4 ∧ (performAll ops s).out = s.out ∧
    (performAll ops s).consumed = s.consumed ∧ (performAll ops s).emitted = s.emitted ∧
    (∀ d, ∃ t, exec (.extract d) (performAll ops s) = .next t ∧
      t.rsp = some (.protocolViolation (hdrLength s) (hdrType s)) ∧ t.viol = true) ∧
    (s.cfg.rbCap = .finite s.rb.length → (performAll ops s).rb = s.rb ∧
      ∀ b, exec (.feedByte b) (performAll ops s) = .next (performAll ops s))

/-- A full buffer never coincides with STALL: with `RB_CAP >= MAX_FRAME_BYTES` and `len(RB) = RB_CAP`, EXTRACT either
raises ProtocolViolation or delivers a Frame and so makes room. Derived (R57, itself derived). -/
def Obligations.FullBufferNeverStalls : Prop :=
  ∀ (d : Byte) (s : State), s.cfg.valid = true → s.cfg.rbCap = .finite s.rb.length →
    ∃ t, exec (.extract d) s = .next t ∧
      ((∃ l ty, t.rsp = some (.protocolViolation l ty)) ∨
        ((∃ f, t.rsp = some (.frame f)) ∧ ∀ b, ∃ u, exec (.feedByte b) t = .next u ∧ u.rsp = some .ok))

/-- What the host sees: bit 0 of STATUS is CLOSED, bit 1 is VIOL, the `fault` output is their disjunction, and the two
faults carry the cause codes 1 and 2. Derived (R24, R86, R171, R186). -/
def Obligations.StatusAndFaultOutputs : Prop :=
  ∀ s : State, (statusReg s)[0] = s.closed ∧ (statusReg s)[1] = s.viol ∧
    (faultOut s = true ↔ s.closed = true ∨ s.viol = true) ∧
    FatalCondition.causeCode .streamClosed = 1 ∧ FatalCondition.causeCode .protocolViolation = 2 ∧
    FatalCondition.causeCode .transportError = 3 ∧
    ∀ r : Response, (∀ k, r.fatal = some k → k.causeCode = r.code) ∧ r.fatal ≠ some .transportError ∧
      (r.fatal = none → r.code = 0 ∨ r.code = 4 ∨ r.code = 5 ∨ r.code = 7)

/-- When EXTRACT raises ProtocolViolation the fault is precise: nothing is delivered or consumed, RB is untouched from
the bad header on, and the header view still shows it. A run that this EXTRACT ends has ended badly, and its result is
the Frames delivered before the violation and the violation's header. Derived (R184, R190, R222). -/
def Obligations.ViolationIsPrecise : Prop :=
  (∀ (d : Byte) (s t : State) (l ty : Half), exec (.extract d) s = .next t →
    t.rsp = some (.protocolViolation l ty) →
    t.viol = true ∧ t.out = s.out ∧ t.rb = s.rb ∧ t.consumed = s.consumed ∧ headerView t = some (l, ty)) ∧
  (∀ (r : Run) (d : Byte) (t : State) (l ty : Half), exec (.extract d) r.final = .next t →
    t.rsp = some (.protocolViolation l ty) →
    Run.endedBadly ⟨r.cfg, r.ops ++ [.extract d]⟩ = true ∧
      Run.result ⟨r.cfg, r.ops ++ [.extract d]⟩ = .endedBadly r.final.out l ty)

/-! ### Runs -/

/-- A run of DEC and ENC operations has ended well exactly when the peer closed, no violation was met, and some EXTRACT
answered STALL after which no byte was accepted, that is, a drain issued after the last FEED_BYTE ended with STALL. Then
its result is the Frames delivered and the leftover RB, and a further drain yields nothing. A run ended neither well nor
badly has the Frames delivered so far as its result. Derived (R222, the spec's decision D18; that one EXTRACT answering
STALL is such a drain is log entry 8). -/
def Obligations.RunEndsWellAfterCloseAndDrain : Prop :=
  ∀ r : Run, (∀ i ∈ r.ops, i.header = none) →
    (r.endedWell = true ↔ r.final.closed = true ∧ r.final.viol = false ∧
      ∃ before after d, r.ops = before ++ .extract d :: after ∧
        (performAll (before ++ [.extract d]) r.start).rsp = some .stall ∧
        (performAll (before ++ [.extract d]) r.start).fed = r.final.fed) ∧
    (r.endedWell = true → AtRest r.final ∧ r.result = .endedWell r.final.out r.final.rb ∧
      drain r.final = ⟨[], .stall, { r.final with rsp := some .stall }⟩) ∧
    (r.endedWell = false → r.endedBadly = false → r.result = .stopped r.final.out)

/-- The steps perform the run: after the step that takes a RESET, one step for each event up to the next RESET (or the
end), be it a command or an ENC request that can be presented, leads to a state in which the run is over and all of
DEC's state is as the run's operations leave it. Derived (R222, R46). That every event takes exactly one step, a
FEED_BYTE that is held and so used up included, is the model's choice, log entry 4. -/
def Obligations.StepsPerformTheRun : Prop :=
  ∀ (s : State) (offered : Option CmdWord) (events rest : List HostEvent),
    s.inputs = .rst offered :: (events ++ rest) →
    (∀ e ∈ events, (∃ w, e = .cmd w) ∨
      ∃ type payload, e = .encRequest type payload ∧ s.cfg.encInMax.admits (payload.getD []).length = true) →
    (rest = [] ∨ ∃ o more, rest = .rst o :: more) →
    ∃ u t : State, step s = .next u ∧ steps events.length u = .next t ∧
      runOver t = true ∧ t.inputs = rest ∧
      t = { (Run.of u).final with encOut := t.encOut, inputs := rest }

/-- Once a run is over nothing of DEC changes any more before the next RESET: such a step leaves all but the used-up
event and what ENC returns, and the run stays over. Derived (R222, R201, R55). -/
def Obligations.RunOverIsFinal : Prop :=
  ∀ s t : State, runOver s = true → (∀ offered rest, s.inputs ≠ .rst offered :: rest) → step s = .next t →
    runOver t = true ∧ t = { s with encOut := t.encOut, inputs := s.inputs.tail }

/-! ### The document's properties -/

/-- Round trip: for every type and every payload of at most `MAX_PAYLOAD` bytes, a freshly reset decoder fed the bytes
of ENCODE yields exactly one Frame with that type and payload and `length = 2 + len(payload)`, then STALL, with RB
empty. For every valid parameter set. R113. -/
def Obligations.DecodeOfEncodedFrameIsTheFrame : Prop :=
  ∀ (s : State) (type : Half) (payload : List Byte), s.cfg.valid = true → payload.length ≤ s.cfg.maxPayload →
    let d := decodeBytes (encodeFrame s.cfg.maxPayload type payload) s
    d.frames = [⟨BitVec.ofNat 16 (2 + payload.length), type, payload⟩] ∧ d.ending = .stall ∧ d.state.rb = [] ∧
      d.state.out = d.frames

/-- A whole session: any sequence of messages encoded, concatenated and fed through a decoder of the same
`MAX_PAYLOAD`, by an inbound flow that issues EXTRACT whenever a byte is held, arrives as exactly those Frames in
order, each payload cut as ENCODE cuts it, every byte accepted, then STALL with RB empty. Of no message at all there
are no bytes, and the empty chunk is a close. For every valid parameter set, the smallest buffer included. Derived
(R44, R57, R104, R113, R117, R146). The flow's way round a hold, and that the Frames it delivers there count among those
of `decode`, are the model's choice, log entry 20. -/
def Obligations.EncodedMessagesArriveInOrder : Prop :=
  ∀ (s : State) (messages : List (Half × List Byte)), s.cfg.valid = true →
    let bytes := messages.flatMap fun m => encodeFrame s.cfg.maxPayload m.1 m.2
    let d := decodeBytes bytes s
    (messages ≠ [] → (feedChunk (some bytes) (resetDec s)).1 = .accepted) ∧
    (messages = [] → (feedChunk (some bytes) (resetDec s)).1 = .streamClosed) ∧
    d.frames = messages.map (fun m =>
      ⟨BitVec.ofNat 16 (2 + (m.2.take s.cfg.maxPayload).length), m.1, m.2.take s.cfg.maxPayload⟩) ∧
    d.ending = .stall ∧ d.state.rb = []

/-- Truncation: a payload longer than `MAX_PAYLOAD` gives the frame of its first `MAX_PAYLOAD` bytes, and decoding it
yields that payload with `length = MAX_PAYLOAD + 2` (1026 at the document's value). R147. -/
def Obligations.OversizedPayloadIsCut : Prop :=
  ∀ (s : State) (type : Half) (payload : List Byte), s.cfg.valid = true →
    encodeFrame s.cfg.maxPayload type payload =
      encodeFrame s.cfg.maxPayload type (payload.take s.cfg.maxPayload) ∧
    (s.cfg.maxPayload ≤ payload.length →
      (decodeBytes (encodeFrame s.cfg.maxPayload type payload) s).frames =
        [⟨BitVec.ofNat 16 (s.cfg.maxPayload + 2), type, payload.take s.cfg.maxPayload⟩])

/-- Fragmentation invariance, in the general form, which R114 marks as an inference of the spec's own from R101, R103
and R109: for any bytes, legal or not, any two interleavings of FEED_BYTE and EXTRACT that feed them, every FEED_BYTE
accepted, followed by a drain, deliver the same Frames in the same order, leave the same RB, and end alike, with the
same violation if there is one. From any state. Derived. -/
def Obligations.FragmentationDoesNotMatter : Prop :=
  ∀ (s : State) (ops ops' : List InboundOp), fedBytes ops = fedBytes ops' → allAccepted ops s = true →
    allAccepted ops' s = true →
    let d := drain (performInbound ops s)
    let d' := drain (performInbound ops' s)
    d.state.out = d'.state.out ∧ d.state.rb = d'.state.rb ∧ d.ending = d'.ending ∧ d.state.viol = d'.state.viol

/-- Partial-frame stall: with fewer than 4 bytes, or a legal header and fewer than `total` bytes, a drain yields no
Frame and ends normally, leaving everything but the response as it was; as soon as `total` bytes are there, the next
EXTRACT delivers the Frame. R115. -/
def Obligations.PartialFrameStallsUntilWhole : Prop :=
  ∀ (s : State), (AtRest s → drain s = ⟨[], .stall, { s with rsp := some .stall }⟩) ∧
    (∀ more : List Byte, 4 ≤ s.rb.length → hdrLegal s = true → hdrTotal s ≤ s.rb.length + more.length →
      ∃ t, exec (.extract 0) (append more s) = .next t ∧
        t.rsp = some (.frame ⟨hdrLength s, hdrType s, ((s.rb ++ more).drop 4).take (hdrTotal s - 4)⟩))

/-- Boundary violation: a buffer that begins with a header of `length` 0, 1 or `MAX_LENGTH_FIELD + 1` makes `drain()`
fail with ProtocolViolation and no Frame, now and at every later drain, whatever is fed behind it; `length` 2 and
`MAX_LENGTH_FIELD` are accepted. R116. -/
def Obligations.IllegalHeaderFailsEveryDrain : Prop :=
  ∀ (s : State) (length type : Half) (rest more : List Byte),
    s.rb = headerBytes length type ++ rest →
    (length.toNat = 0 ∨ length.toNat = 1 ∨ length.toNat = s.cfg.maxPayload + 3 →
      drain s = ⟨[], .violation length type,
        { s with viol := true, rsp := some (.protocolViolation length type) }⟩ ∧
      (drain (append more (drain s).state)).frames = [] ∧
      (drain (append more (drain s).state)).ending = .violation length type) ∧
    (length.toNat = 2 ∨ length.toNat = s.cfg.maxPayload + 2 →
      ∀ l ty, (perform (.extract 0) s).rsp ≠ some (.protocolViolation l ty))

/-- Multi-frame single read: one feed of three minimal frames of types 2, 1, 3 yields exactly those three from one
drain. R117. -/
def Obligations.ThreeFramesFromOneFeed : Prop :=
  ∀ s : State, s.cfg.rbCap.admits 12 = true →
    let d := drain (feed (some [0x00, 0x02, 0x00, 0x02, 0x00, 0x02, 0x00, 0x01, 0x00, 0x02, 0x00, 0x03]) (resetDec s))
    d.frames = [⟨2, 2, []⟩, ⟨2, 1, []⟩, ⟨2, 3, []⟩] ∧ d.ending = .stall

/-- The document's worked example: `encode(1, "hello")` is `00 07 00 01 68 65 6c 6c 6f`, and decoding those nine bytes
yields `Frame(7, 1, "hello")`. R119. -/
def Obligations.HelloIsEncodedAndDecoded : Prop :=
  encodeFrame 1024 1 [0x68, 0x65, 0x6c, 0x6c, 0x6f] = [0x00, 0x07, 0x00, 0x01, 0x68, 0x65, 0x6c, 0x6c, 0x6f] ∧
  (decodeBytes [0x00, 0x07, 0x00, 0x01, 0x68, 0x65, 0x6c, 0x6c, 0x6f] State.reset).frames =
    [⟨7, 1, [0x68, 0x65, 0x6c, 0x6c, 0x6f]⟩]

/-- Feeding an empty or absent chunk raises StreamClosed and performs no buffer mutation, R118; feeding a non-empty
chunk that fits appends it, and nothing else changes but the model's record of IN (log entry 3), as R104 has it. -/
def Obligations.EmptyChunkSignalsTheClose : Prop :=
  (∀ s : State, feed (some []) s = { s with closed := true, rsp := some .streamClosed } ∧
    feed none s = { s with closed := true, rsp := some .streamClosed }) ∧
  (∀ (s : State) (chunk : List Byte), chunk ≠ [] → s.cfg.rbCap.admits (s.rb.length + chunk.length) = true →
    { feed (some chunk) s with inStream := s.inStream } =
      { s with rb := s.rb ++ chunk, fed := s.fed + chunk.length, rsp := some .ok })

/-- `decode(bytes)` is `RESET; feed(bytes); drain()`, its value the Frames yielded since that RESET, the feed being the
inbound flow's; for bytes that fit the Receive Buffer it is a drain of the document's own `feed`; for no bytes the feed
is FEED_EOF, so StreamClosed is raised, CLOSED is set and nothing is yielded. Derived (R106, the spec's decision D24;
R104 for the hold and for the empty chunk). That for bytes longer than the buffer the value is all of OUT, the Frames an
EXTRACT delivered during a hold included, is the model's choice, log entry 20. -/
def Obligations.DecodeIsResetFeedDrain : Prop :=
  (∀ (s : State) (bytes : List Byte),
    let d := drain (feedChunk (some bytes) (resetDec s)).2
    (decodeBytes bytes s).frames = d.state.out ∧ (decodeBytes bytes s).ending = d.ending ∧
      (decodeBytes bytes s).state = d.state) ∧
  (∀ (s : State) (bytes : List Byte), s.cfg.rbCap.admits bytes.length = true →
    decodeBytes bytes s = drain (feed (some bytes) (resetDec s))) ∧
  (∀ s : State, feedChunk (some []) (resetDec s) =
      (.streamClosed, { resetDec s with closed := true, rsp := some .streamClosed }) ∧
    decodeBytes [] s = ⟨[], .stall, { resetDec s with closed := true, rsp := some .stall }⟩)

/-- `drain()` is finite: it ends after a STALL or with a ProtocolViolation, never short of either, yields at most
`floor(n / 4)` Frames, which are exactly those it adds to OUT, and after a normal end what is left is at rest, at most
`MAX_FRAME_BYTES - 1` bytes. Derived (R105, R107, R121; R107 and R121 are the spec's inferences). -/
def Obligations.DrainEndsAndLeavesAResidue : Prop :=
  ∀ s : State, s.cfg.valid = true →
    (drain s).ending ≠ .unfinished ∧ (drain s).frames.length ≤ s.rb.length / 4 ∧
    (drain s).state.out = s.out ++ (drain s).frames ∧
    ((drain s).ending = .stall → AtRest (drain s).state ∧ (drain s).state.rb.length ≤ s.cfg.maxPayload + 3 ∧
      drain (drain s).state = ⟨[], .stall, (drain s).state⟩)

/-- Frames ahead of an illegal header are delivered: with whole legal frames in RB and an illegal header behind them,
`drain()` yields those Frames in order and then fails, the illegal header left at the head. R108 (the spec's decision
D10). -/
def Obligations.FramesAheadOfAViolationAreDelivered : Prop :=
  ∀ (s : State) (frames : List Frame) (length type : Half) (rest : List Byte),
    (∀ f ∈ frames, f.wf s.cfg = true) → legalLength s.cfg length = false →
    s.rb = wireOf frames ++ headerBytes length type ++ rest →
    (drain s).frames = frames ∧ (drain s).ending = .violation length type ∧
      (drain s).state.rb = headerBytes length type ++ rest

/-- What ENCODE returns is always between 4 and `MAX_LENGTH_FIELD + 2` bytes and is one structurally valid frame: it is
the wire form of a well-formed Frame, so a decoder of the same `MAX_PAYLOAD` never raises ProtocolViolation on it.
Derived (R144, itself derived). -/
def Obligations.EncoderOutputIsAlwaysAValidFrame : Prop :=
  ∀ (c : Config) (type : Half) (payload : List Byte), c.valid = true →
    4 ≤ (encodeFrame c.maxPayload type payload).length ∧
    (encodeFrame c.maxPayload type payload).length ≤ c.maxLengthField + 2 ∧
    ∃ f : Frame, f.wf c = true ∧ f.type = type ∧ f.wire = encodeFrame c.maxPayload type payload

/-- A sender built with a larger `MAX_PAYLOAD` ends the session of this decoder: a frame it makes of a payload above
the receiver's limit is met with ProtocolViolation and no Frame; a sender with a smaller limit breaks nothing.
Derived (R9, R214, U17). How the flow feeds a frame that meets a hold is the model's choice, log entry 20. -/
def Obligations.LargerSenderLimitViolates : Prop :=
  ∀ (s : State) (sender : Nat) (type : Half) (payload : List Byte), s.cfg.valid = true → sender + 2 ≤ 65535 →
    let d := decodeBytes (encodeFrame sender type payload) s
    (s.cfg.maxPayload < min payload.length sender → d.state.out = [] ∧
      d.ending = .violation (BitVec.ofNat 16 (2 + min payload.length sender)) type) ∧
    (min payload.length sender ≤ s.cfg.maxPayload → d.ending = .stall ∧
      d.state.out = [⟨BitVec.ofNat 16 (2 + min payload.length sender), type, payload.take sender⟩])

/-- A close loses no whole frame: after FEED_EOF a drain yields the same Frames, ends alike and leaves the same RB as
it would have without it; the leftover bytes stay. Derived (R203, R204; the spec's decision D23). -/
def Obligations.CloseLosesNoFrame : Prop :=
  ∀ (d : Byte) (s : State),
    (drain (perform (.feedEof d) s)).frames = (drain s).frames ∧
    (drain (perform (.feedEof d) s)).ending = (drain s).ending ∧
    (drain (perform (.feedEof d) s)).state.rb = (drain s).state.rb ∧
    (drain (perform (.feedEof d) s)).state.closed = true
end

