-- ==== Sys2Proof/Laws/Config.lean ====
section
/-! SUPPORT. The parameters' values and bounds, in the form omega reads. -/

namespace Sys2Proof

@[simp] theorem headerSize_eq : headerSize = 4 := rfl
@[simp] theorem lenBytes_eq : lenBytes = 2 := rfl
@[simp] theorem typeBytes_eq : typeBytes = 2 := rfl
@[simp] theorem minLengthField_eq : minLengthField = 2 := rfl
@[simp] theorem minFrameBytes_eq : minFrameBytes = 4 := rfl
@[simp] theorem maxLengthField_eq (c : Config) : c.maxLengthField = c.maxPayload + 2 := rfl
@[simp] theorem maxFrameBytes_eq (c : Config) : c.maxFrameBytes = c.maxPayload + 4 := rfl
@[simp] theorem document_maxPayload : Config.document.maxPayload = 1024 := rfl

theorem Bound.admits_of_le {b : Bound} {k n : Nat} (h : k ≤ n) (hn : b.admits n = true) : b.admits k = true := by
  cases b with
  | finite m => simp only [Bound.admits, decide_eq_true_eq] at *; omega
  | inf => rfl

theorem Config.valid_iff (c : Config) :
    c.valid = true ↔ c.maxPayload + 2 ≤ 65535 ∧ c.rbCap.admits (c.maxPayload + 4) = true := by
  simp only [Config.valid, Bool.and_eq_true, decide_eq_true_eq]
  rfl

namespace Machine

@[simp] theorem legalLength_iff (c : Config) (length : Half) :
    legalLength c length = true ↔ 2 ≤ length.toNat ∧ length.toNat ≤ c.maxPayload + 2 := by
  simp only [legalLength, Bool.and_eq_true, decide_eq_true_eq]

theorem legalLength_false_iff (c : Config) (length : Half) :
    legalLength c length = false ↔ length.toNat < 2 ∨ c.maxPayload + 2 < length.toNat := by
  rw [← Bool.not_eq_true, legalLength_iff]
  omega

@[simp] theorem frameTotal_eq (length : Half) : frameTotal length = 2 + length.toNat := rfl

theorem Frame.wf_iff (c : Config) (f : Frame) :
    f.wf c = true ↔ f.length.toNat = 2 + f.payload.length ∧ f.payload.length ≤ c.maxPayload := by
  simp only [Frame.wf, Bool.and_eq_true, decide_eq_true_eq, legalLength_iff]
  simp only [typeBytes_eq]
  omega

end Machine

end Sys2Proof
end

