-- ==== Sys2Proof/Laws/Bytes.lean ====
section
/-! SUPPORT. Byte order: what the two header fields read as after they are written (20_memory.md R42). -/

namespace Sys2Proof

theorem hiByte_toNat (v : Half) : (hiByte v).toNat = v.toNat / 256 := by
  have := v.isLt
  simp only [hiByte, BitVec.extractLsb'_toNat, Nat.shiftRight_eq_div_pow]
  omega

theorem loByte_toNat (v : Half) : (loByte v).toNat = v.toNat % 256 := by
  simp [loByte]

theorem be16_toNat (S : List Byte) (a : Nat) :
    (be16 S a).toNat = (S.getD a 0).toNat * 256 + (S.getD (a + 1) 0).toNat := by
  have h1 := (S.getD a 0).isLt
  have h2 := (S.getD (a + 1) 0).isLt
  simp only [be16, BitVec.toNat_ofNat]
  omega

@[simp] theorem headerBytes_length (length type : Half) : (headerBytes length type).length = 4 := rfl

@[simp] theorem be16_headerBytes_length (length type : Half) (T : List Byte) :
    be16 (headerBytes length type ++ T) 0 = length := by
  have := length.isLt
  apply BitVec.eq_of_toNat_eq
  simp only [be16_toNat, headerBytes, List.cons_append, List.getD_cons_zero, List.getD_cons_succ, hiByte_toNat,
    loByte_toNat]
  omega

@[simp] theorem be16_headerBytes_type (length type : Half) (T : List Byte) :
    be16 (headerBytes length type ++ T) 2 = type := by
  have := type.isLt
  apply BitVec.eq_of_toNat_eq
  simp only [be16_toNat, headerBytes, List.cons_append, List.getD_cons_zero, List.getD_cons_succ, hiByte_toNat,
    loByte_toNat]
  omega

/-- The fields read off a stream are those of its first four bytes. -/
theorem be16_append (S T : List Byte) (a : Nat) (h : a + 1 < S.length) : be16 (S ++ T) a = be16 S a := by
  unfold be16
  rw [List.getD_append _ _ _ _ (by omega), List.getD_append _ _ _ _ h]

theorem be16_take (S : List Byte) (n a : Nat) (h : a + 1 < n) : be16 (S.take n) a = be16 S a := by
  unfold be16
  simp only [List.getD_eq_getElem?_getD, List.getElem?_take]
  rw [if_pos (by omega), if_pos h]

/-- Four bytes are the header bytes of the fields read off them. -/
theorem headerBytes_be16 (b₀ b₁ b₂ b₃ : Byte) (T : List Byte) :
    headerBytes (be16 (b₀ :: b₁ :: b₂ :: b₃ :: T) 0) (be16 (b₀ :: b₁ :: b₂ :: b₃ :: T) 2) = [b₀, b₁, b₂, b₃] := by
  have h0 := b₀.isLt
  have h1 := b₁.isLt
  have h2 := b₂.isLt
  have h3 := b₃.isLt
  simp only [headerBytes, List.cons.injEq, and_true]
  refine ⟨?_, ?_, ?_, ?_⟩ <;> apply BitVec.eq_of_toNat_eq <;>
    simp only [hiByte_toNat, loByte_toNat, be16_toNat, List.getD_cons_zero, List.getD_cons_succ] <;> omega

/-- A stream of at least four bytes starts with the header bytes of its own fields. -/
theorem take_four_eq_headerBytes (S : List Byte) (h : 4 ≤ S.length) :
    S.take 4 = headerBytes (be16 S 0) (be16 S 2) := by
  match S, h with
  | b₀ :: b₁ :: b₂ :: b₃ :: T, _ => rw [headerBytes_be16]; rfl

namespace Machine

@[simp] theorem be16_peek4_length (s : State) : be16 (peek4 s) 0 = hdrLength s := by
  simp only [peek4, memRead, List.drop_zero, headerSize_eq, hdrLength]
  exact be16_take _ _ _ (by omega)

@[simp] theorem be16_peek4_type (s : State) : be16 (peek4 s) 2 = hdrType s := by
  simp only [peek4, memRead, List.drop_zero, headerSize_eq, hdrType]
  exact be16_take _ _ _ (by omega)

@[simp] theorem Frame.wire_length (f : Frame) : f.wire.length = 4 + f.payload.length := by
  simp [Frame.wire]

end Machine

end Sys2Proof
end

