-- ==== Sys2Proof/Laws/Decode.lean ====
section
/-! SUPPORT. The rows of format FRAME as ranges of `length` (30_encoding.md R79): each `match` and `mask` selects the
block of the table's other column, and the fields read off a header word are the fields written into it. -/

namespace Sys2Proof

/-- Masking with the ones above bit `k` clears the bits below it. -/
theorem and_highOnes (x k n : Nat) (hx : x < 2 ^ (n + k)) : x &&& ((2 ^ n - 1) <<< k) = x / 2 ^ k * 2 ^ k := by
  apply Nat.eq_of_testBit_eq
  intro i
  rw [Nat.testBit_and, Nat.testBit_shiftLeft, Nat.testBit_two_pow_sub_one, Nat.testBit_mul_two_pow,
    Nat.testBit_div_two_pow]
  by_cases h : k ≤ i
  · have e : i - k + k = i := by omega
    by_cases h' : i - k < n
    · simp [h, h', e]
    · have : x.testBit i = false := Nat.testBit_lt_two_pow (lt_of_lt_of_le hx (Nat.pow_le_pow_right (by omega) (by omega)))
      simp [h, e, this]
  · simp [h]

/-- A row whose mask is the ones above bit `k` selects the words of one block. -/
theorem selects_high (r : FrameRow) (n k : Nat) (hm : r.mask.toNat = (2 ^ n - 1) <<< k) (hk : n + k = 32)
    (H : HeaderWord) : r.selects H = true ↔ H.toNat / 2 ^ k * 2 ^ k = r.value.toNat := by
  rw [FrameRow.selects, beq_iff_eq, ← BitVec.toNat_inj, BitVec.toNat_and, hm,
    and_highOnes _ _ n (by rw [hk]; exact H.isLt)]

/-- A row whose mask is the low sixteen bits selects one type. -/
theorem selects_low (r : FrameRow) (hm : r.mask = 0x0000FFFF) (H : HeaderWord) :
    r.selects H = true ↔ H.toNat % 65536 = r.value.toNat := by
  rw [FrameRow.selects, beq_iff_eq, ← BitVec.toNat_inj, BitVec.toNat_and, hm]
  show H.toNat &&& (2 ^ 16 - 1) = _ ↔ _
  rw [Nat.and_two_pow_sub_one_eq_mod]

theorem wordLength_toNat (H : HeaderWord) : (wordLength H).toNat = H.toNat / 65536 := by
  have := H.isLt
  simp only [wordLength, BitVec.extractLsb'_toNat, Nat.shiftRight_eq_div_pow]
  omega

theorem wordType_toNat (H : HeaderWord) : (wordType H).toNat = H.toNat % 65536 := by
  simp [wordType]

theorem headerWordOf_toNat (length type : Half) :
    (headerWordOf length type).toNat = length.toNat * 65536 + type.toNat := by
  have h := type.isLt
  simp only [headerWordOf, BitVec.toNat_append]
  rw [← Nat.shiftLeft_add_eq_or_of_lt h, Nat.shiftLeft_eq]

@[simp] theorem wordLength_headerWordOf (length type : Half) : wordLength (headerWordOf length type) = length := by
  have := type.isLt
  apply BitVec.eq_of_toNat_eq
  rw [wordLength_toNat, headerWordOf_toNat]
  omega

@[simp] theorem wordType_headerWordOf (length type : Half) : wordType (headerWordOf length type) = type := by
  have := type.isLt
  apply BitVec.eq_of_toNat_eq
  rw [wordType_toNat, headerWordOf_toNat]
  omega

theorem headerWord_toNat (S : List Byte) : (headerWord S).toNat =
    (S.getD 0 0).toNat * 2 ^ 24 + (S.getD 1 0).toNat * 2 ^ 16 + (S.getD 2 0).toNat * 2 ^ 8 + (S.getD 3 0).toNat := by
  have h0 := (S.getD 0 0).isLt
  have h1 := (S.getD 1 0).isLt
  have h2 := (S.getD 2 0).isLt
  have h3 := (S.getD 3 0).isLt
  simp only [headerWord, BitVec.toNat_ofNat]
  omega

/-- The header word is made of the two fields of R73. -/
@[simp] theorem wordLength_headerWord (S : List Byte) : wordLength (headerWord S) = be16 S 0 := by
  have h2 := (S.getD 2 0).isLt
  have h3 := (S.getD 3 0).isLt
  apply BitVec.eq_of_toNat_eq
  simp only [wordLength_toNat, headerWord_toNat, be16_toNat, Nat.zero_add]
  omega

@[simp] theorem wordType_headerWord (S : List Byte) : wordType (headerWord S) = be16 S 2 := by
  have h2 := (S.getD 2 0).isLt
  have h3 := (S.getD 3 0).isLt
  apply BitVec.eq_of_toNat_eq
  simp only [wordType_toNat, headerWord_toNat, be16_toNat, Nat.reduceAdd]
  omega

/-- A header word is determined by its two fields. -/
theorem headerWord_ext {H K : HeaderWord} (hl : wordLength H = wordLength K) (ht : wordType H = wordType K) :
    H = K := by
  apply BitVec.eq_of_toNat_eq
  have h1 := congrArg BitVec.toNat hl
  have h2 := congrArg BitVec.toNat ht
  rw [wordLength_toNat, wordLength_toNat] at h1
  rw [wordType_toNat, wordType_toNat] at h2
  omega

/-- Reading back the four bytes of a header gives its header word. -/
@[simp] theorem headerWord_headerBytes (length type : Half) (T : List Byte) :
    headerWord (headerBytes length type ++ T) = headerWordOf length type := by
  apply headerWord_ext <;> simp

theorem find_row (r : FrameRow) (rs : List FrameRow) (H : HeaderWord) :
    (((r :: rs).find? (·.selects H)).getD opaqueRow) =
      if r.selects H = true then r else ((rs.find? (·.selects H)).getD opaqueRow) := by
  rw [List.find?_cons]
  cases h : r.selects H <;> simp

/-- The frame kind of a header by the ranges of R79 and R77, the table's other column. -/
def kindByRange (length type : Half) : Instr :=
  if 0 ≤ length.toNat ∧ length.toNat ≤ 1 then .illegalLengthLow length type
  else if 0x0403 ≤ length.toNat ∧ length.toNat ≤ 0x0403 then .illegalLengthHigh0403 length type
  else if 0x0404 ≤ length.toNat ∧ length.toNat ≤ 0x0407 then .illegalLengthHigh0404 length type
  else if 0x0408 ≤ length.toNat ∧ length.toNat ≤ 0x040F then .illegalLengthHigh0408 length type
  else if 0x0410 ≤ length.toNat ∧ length.toNat ≤ 0x041F then .illegalLengthHigh0410 length type
  else if 0x0420 ≤ length.toNat ∧ length.toNat ≤ 0x043F then .illegalLengthHigh0420 length type
  else if 0x0440 ≤ length.toNat ∧ length.toNat ≤ 0x047F then .illegalLengthHigh0440 length type
  else if 0x0480 ≤ length.toNat ∧ length.toNat ≤ 0x04FF then .illegalLengthHigh0480 length type
  else if 0x0500 ≤ length.toNat ∧ length.toNat ≤ 0x05FF then .illegalLengthHigh0500 length type
  else if 0x0600 ≤ length.toNat ∧ length.toNat ≤ 0x07FF then .illegalLengthHigh0600 length type
  else if 0x0800 ≤ length.toNat ∧ length.toNat ≤ 0x0FFF then .illegalLengthHigh0800 length type
  else if 0x1000 ≤ length.toNat ∧ length.toNat ≤ 0x1FFF then .illegalLengthHigh1000 length type
  else if 0x2000 ≤ length.toNat ∧ length.toNat ≤ 0x3FFF then .illegalLengthHigh2000 length type
  else if 0x4000 ≤ length.toNat ∧ length.toNat ≤ 0x7FFF then .illegalLengthHigh4000 length type
  else if 0x8000 ≤ length.toNat ∧ length.toNat ≤ 0xFFFF then .illegalLengthHigh8000 length type
  else if type = typeChat then .chat length
  else if type = typeJoinRoom then .joinRoom length
  else if type = typeLeaveRoom then .leaveRoom length
  else .opaqueFrame length type

theorem selects_block (r : FrameRow) (n k lo hi : Nat) (hm : r.mask.toNat = (2 ^ n - 1) <<< k) (hk : n + k = 32)
    (hlo : r.value.toNat = lo * 65536) (hhi : lo * 65536 + 2 ^ k = (hi + 1) * 65536)
    (hdvd : lo * 65536 % 2 ^ k = 0) (H : HeaderWord) :
    r.selects H = true ↔ lo ≤ (wordLength H).toNat ∧ (wordLength H).toNat ≤ hi := by
  rw [selects_high r n k hm hk, hlo, wordLength_toNat]
  have h1 := Nat.div_add_mod H.toNat (2 ^ k)
  have h2 := Nat.mod_lt H.toNat (y := 2 ^ k) (by positivity)
  have h3 : 2 ^ k * (lo * 65536 / 2 ^ k) = lo * 65536 := Nat.mul_div_cancel' (Nat.dvd_of_mod_eq_zero hdvd)
  constructor
  · intro h
    rw [Nat.mul_comm] at h
    omega
  · rintro ⟨ha, hb⟩
    have hq : H.toNat / 2 ^ k = lo * 65536 / 2 ^ k := by
      apply Nat.div_eq_of_lt_le
      · rw [Nat.mul_comm, h3]; omega
      · rw [Nat.add_mul, Nat.mul_comm, h3]; omega
    rw [hq, Nat.mul_comm, h3]

theorem selects_type (r : FrameRow) (type : Half) (hm : r.mask = 0x0000FFFF) (hv : r.value.toNat = type.toNat)
    (H : HeaderWord) : r.selects H = true ↔ wordType H = type := by
  rw [selects_low r hm, hv, ← BitVec.toNat_inj, wordType_toNat]

/-- Case analysis on the kind of a header: one premise per row of the table, with the row's condition on `length` and
`type`. -/
theorem kindByRange_elim (P : Instr → Prop) (length type : Half)
    (low : inBlock 0 1 length = true → P (.illegalLengthLow length type))
    (high0403 : inBlock 0x0403 0x0403 length = true → P (.illegalLengthHigh0403 length type))
    (high0404 : inBlock 0x0404 0x0407 length = true → P (.illegalLengthHigh0404 length type))
    (high0408 : inBlock 0x0408 0x040F length = true → P (.illegalLengthHigh0408 length type))
    (high0410 : inBlock 0x0410 0x041F length = true → P (.illegalLengthHigh0410 length type))
    (high0420 : inBlock 0x0420 0x043F length = true → P (.illegalLengthHigh0420 length type))
    (high0440 : inBlock 0x0440 0x047F length = true → P (.illegalLengthHigh0440 length type))
    (high0480 : inBlock 0x0480 0x04FF length = true → P (.illegalLengthHigh0480 length type))
    (high0500 : inBlock 0x0500 0x05FF length = true → P (.illegalLengthHigh0500 length type))
    (high0600 : inBlock 0x0600 0x07FF length = true → P (.illegalLengthHigh0600 length type))
    (high0800 : inBlock 0x0800 0x0FFF length = true → P (.illegalLengthHigh0800 length type))
    (high1000 : inBlock 0x1000 0x1FFF length = true → P (.illegalLengthHigh1000 length type))
    (high2000 : inBlock 0x2000 0x3FFF length = true → P (.illegalLengthHigh2000 length type))
    (high4000 : inBlock 0x4000 0x7FFF length = true → P (.illegalLengthHigh4000 length type))
    (high8000 : inBlock 0x8000 0xFFFF length = true → P (.illegalLengthHigh8000 length type))
    (chat : tableLegalLength length = true → type = typeChat → P (.chat length))
    (join : tableLegalLength length = true → type = typeJoinRoom → P (.joinRoom length))
    (leave : tableLegalLength length = true → type = typeLeaveRoom → P (.leaveRoom length))
    (other : tableLegalLength length = true → isAssignedType type = false → P (.opaqueFrame length type)) :
    P (kindByRange length type) := by
  have hb := length.isLt
  have block (lo hi : Nat) (h : lo ≤ length.toNat ∧ length.toNat ≤ hi) : inBlock lo hi length = true := by
    rw [inBlock, decide_eq_true h.1, decide_eq_true h.2, Bool.and_self]
  unfold kindByRange
  refine dite (0x0000 ≤ length.toNat ∧ length.toNat ≤ 0x0001) (fun h => (if_pos h).symm ▸ low (block _ _ h))
    (fun n0 => (if_neg n0).symm ▸ ?_)
  refine dite (0x0403 ≤ length.toNat ∧ length.toNat ≤ 0x0403) (fun h => (if_pos h).symm ▸ high0403 (block _ _ h))
    (fun n1 => (if_neg n1).symm ▸ ?_)
  refine dite (0x0404 ≤ length.toNat ∧ length.toNat ≤ 0x0407) (fun h => (if_pos h).symm ▸ high0404 (block _ _ h))
    (fun n2 => (if_neg n2).symm ▸ ?_)
  refine dite (0x0408 ≤ length.toNat ∧ length.toNat ≤ 0x040F) (fun h => (if_pos h).symm ▸ high0408 (block _ _ h))
    (fun n3 => (if_neg n3).symm ▸ ?_)
  refine dite (0x0410 ≤ length.toNat ∧ length.toNat ≤ 0x041F) (fun h => (if_pos h).symm ▸ high0410 (block _ _ h))
    (fun n4 => (if_neg n4).symm ▸ ?_)
  refine dite (0x0420 ≤ length.toNat ∧ length.toNat ≤ 0x043F) (fun h => (if_pos h).symm ▸ high0420 (block _ _ h))
    (fun n5 => (if_neg n5).symm ▸ ?_)
  refine dite (0x0440 ≤ length.toNat ∧ length.toNat ≤ 0x047F) (fun h => (if_pos h).symm ▸ high0440 (block _ _ h))
    (fun n6 => (if_neg n6).symm ▸ ?_)
  refine dite (0x0480 ≤ length.toNat ∧ length.toNat ≤ 0x04FF) (fun h => (if_pos h).symm ▸ high0480 (block _ _ h))
    (fun n7 => (if_neg n7).symm ▸ ?_)
  refine dite (0x0500 ≤ length.toNat ∧ length.toNat ≤ 0x05FF) (fun h => (if_pos h).symm ▸ high0500 (block _ _ h))
    (fun n8 => (if_neg n8).symm ▸ ?_)
  refine dite (0x0600 ≤ length.toNat ∧ length.toNat ≤ 0x07FF) (fun h => (if_pos h).symm ▸ high0600 (block _ _ h))
    (fun n9 => (if_neg n9).symm ▸ ?_)
  refine dite (0x0800 ≤ length.toNat ∧ length.toNat ≤ 0x0FFF) (fun h => (if_pos h).symm ▸ high0800 (block _ _ h))
    (fun n10 => (if_neg n10).symm ▸ ?_)
  refine dite (0x1000 ≤ length.toNat ∧ length.toNat ≤ 0x1FFF) (fun h => (if_pos h).symm ▸ high1000 (block _ _ h))
    (fun n11 => (if_neg n11).symm ▸ ?_)
  refine dite (0x2000 ≤ length.toNat ∧ length.toNat ≤ 0x3FFF) (fun h => (if_pos h).symm ▸ high2000 (block _ _ h))
    (fun n12 => (if_neg n12).symm ▸ ?_)
  refine dite (0x4000 ≤ length.toNat ∧ length.toNat ≤ 0x7FFF) (fun h => (if_pos h).symm ▸ high4000 (block _ _ h))
    (fun n13 => (if_neg n13).symm ▸ ?_)
  refine dite (0x8000 ≤ length.toNat ∧ length.toNat ≤ 0xFFFF) (fun h => (if_pos h).symm ▸ high8000 (block _ _ h))
    (fun n14 => (if_neg n14).symm ▸ ?_)
  have legal : tableLegalLength length = true := block _ _ (by simp only [minLengthField_eq, maxLengthField_eq, document_maxPayload]; omega)
  refine dite (type = typeChat) (fun h => (if_pos h).symm ▸ chat legal h) (fun c => (if_neg c).symm ▸ ?_)
  refine dite (type = typeJoinRoom) (fun h => (if_pos h).symm ▸ join legal h) (fun j => (if_neg j).symm ▸ ?_)
  refine dite (type = typeLeaveRoom) (fun h => (if_pos h).symm ▸ leave legal h) (fun l => (if_neg l).symm ▸ ?_)
  exact other legal (by simp only [isAssignedType, beq_eq_false_iff_ne.2 c, beq_eq_false_iff_ne.2 j, beq_eq_false_iff_ne.2 l, Bool.or_self])

/-- The opcode table's rows, tried in order, are the ranges of R77 and R79. -/
theorem decodeHeader_eq_kindByRange (H : HeaderWord) : decodeHeader H = kindByRange (wordLength H) (wordType H) := by
  have low := selects_block illegalLowRow 15 17 0 1 (by decide) rfl rfl rfl rfl H
  have h0403 :=
    selects_block ⟨0xFFFF0000, 0x04030000, .illegalLengthHigh0403⟩ 16 16 0x0403 0x0403 (by decide) rfl rfl rfl rfl H
  have h0404 :=
    selects_block ⟨0xFFFC0000, 0x04040000, .illegalLengthHigh0404⟩ 14 18 0x0404 0x0407 (by decide) rfl rfl rfl rfl H
  have h0408 :=
    selects_block ⟨0xFFF80000, 0x04080000, .illegalLengthHigh0408⟩ 13 19 0x0408 0x040F (by decide) rfl rfl rfl rfl H
  have h0410 :=
    selects_block ⟨0xFFF00000, 0x04100000, .illegalLengthHigh0410⟩ 12 20 0x0410 0x041F (by decide) rfl rfl rfl rfl H
  have h0420 :=
    selects_block ⟨0xFFE00000, 0x04200000, .illegalLengthHigh0420⟩ 11 21 0x0420 0x043F (by decide) rfl rfl rfl rfl H
  have h0440 :=
    selects_block ⟨0xFFC00000, 0x04400000, .illegalLengthHigh0440⟩ 10 22 0x0440 0x047F (by decide) rfl rfl rfl rfl H
  have h0480 :=
    selects_block ⟨0xFF800000, 0x04800000, .illegalLengthHigh0480⟩ 9 23 0x0480 0x04FF (by decide) rfl rfl rfl rfl H
  have h0500 :=
    selects_block ⟨0xFF000000, 0x05000000, .illegalLengthHigh0500⟩ 8 24 0x0500 0x05FF (by decide) rfl rfl rfl rfl H
  have h0600 :=
    selects_block ⟨0xFE000000, 0x06000000, .illegalLengthHigh0600⟩ 7 25 0x0600 0x07FF (by decide) rfl rfl rfl rfl H
  have h0800 :=
    selects_block ⟨0xF8000000, 0x08000000, .illegalLengthHigh0800⟩ 5 27 0x0800 0x0FFF (by decide) rfl rfl rfl rfl H
  have h1000 :=
    selects_block ⟨0xF0000000, 0x10000000, .illegalLengthHigh1000⟩ 4 28 0x1000 0x1FFF (by decide) rfl rfl rfl rfl H
  have h2000 :=
    selects_block ⟨0xE0000000, 0x20000000, .illegalLengthHigh2000⟩ 3 29 0x2000 0x3FFF (by decide) rfl rfl rfl rfl H
  have h4000 :=
    selects_block ⟨0xC0000000, 0x40000000, .illegalLengthHigh4000⟩ 2 30 0x4000 0x7FFF (by decide) rfl rfl rfl rfl H
  have h8000 :=
    selects_block ⟨0x80000000, 0x80000000, .illegalLengthHigh8000⟩ 1 31 0x8000 0xFFFF (by decide) rfl rfl rfl rfl H
  have hc := selects_type ⟨0x0000FFFF, 0x00000001, fun length _ => .chat length⟩ typeChat rfl rfl H
  have hj := selects_type ⟨0x0000FFFF, 0x00000002, fun length _ => .joinRoom length⟩ typeJoinRoom rfl rfl H
  have hl := selects_type ⟨0x0000FFFF, 0x00000003, fun length _ => .leaveRoom length⟩ typeLeaveRoom rfl rfl H
  simp only [decodeHeader, frameRows, illegalHighRows, assignedTypeRows, List.cons_append, List.nil_append, find_row,
    low, h0403, h0404, h0408, h0410, h0420, h0440, h0480, h0500, h0600, h0800, h1000, h2000, h4000, h8000, hc, hj, hl, apply_ite FrameRow.build, ite_apply]
  rfl

end Sys2Proof
end

