-- ==== Sys2Proof/Laws/State.lean ====
section
/-! SUPPORT. One lemma per field per update of the state, each true by rfl, so that no later proof unfolds a record
update. -/

namespace Sys2Proof.Machine

/-! ### respond -/

@[simp] theorem respond_cfg (r : Response) (s : State) : (respond r s).cfg = s.cfg := rfl
@[simp] theorem respond_rb (r : Response) (s : State) : (respond r s).rb = s.rb := rfl
@[simp] theorem respond_closed (r : Response) (s : State) : (respond r s).closed = s.closed := rfl
@[simp] theorem respond_viol (r : Response) (s : State) : (respond r s).viol = s.viol := rfl
@[simp] theorem respond_fed (r : Response) (s : State) : (respond r s).fed = s.fed := rfl
@[simp] theorem respond_consumed (r : Response) (s : State) : (respond r s).consumed = s.consumed := rfl
@[simp] theorem respond_emitted (r : Response) (s : State) : (respond r s).emitted = s.emitted := rfl
@[simp] theorem respond_inStream (r : Response) (s : State) : (respond r s).inStream = s.inStream := rfl
@[simp] theorem respond_out (r : Response) (s : State) : (respond r s).out = s.out := rfl
@[simp] theorem respond_rsp (r : Response) (s : State) : (respond r s).rsp = some r := rfl
@[simp] theorem respond_encOut (r : Response) (s : State) : (respond r s).encOut = s.encOut := rfl
@[simp] theorem respond_inputs (r : Response) (s : State) : (respond r s).inputs = s.inputs := rfl

/-! ### append -/

@[simp] theorem append_cfg (T : List Byte) (s : State) : (append T s).cfg = s.cfg := rfl
@[simp] theorem append_rb (T : List Byte) (s : State) : (append T s).rb = s.rb ++ T := rfl
@[simp] theorem append_closed (T : List Byte) (s : State) : (append T s).closed = s.closed := rfl
@[simp] theorem append_viol (T : List Byte) (s : State) : (append T s).viol = s.viol := rfl
@[simp] theorem append_fed (T : List Byte) (s : State) : (append T s).fed = s.fed + T.length := rfl
@[simp] theorem append_consumed (T : List Byte) (s : State) : (append T s).consumed = s.consumed := rfl
@[simp] theorem append_emitted (T : List Byte) (s : State) : (append T s).emitted = s.emitted := rfl
@[simp] theorem append_inStream (T : List Byte) (s : State) : (append T s).inStream = s.inStream ++ T := rfl
@[simp] theorem append_out (T : List Byte) (s : State) : (append T s).out = s.out := rfl
@[simp] theorem append_rsp (T : List Byte) (s : State) : (append T s).rsp = s.rsp := rfl
@[simp] theorem append_encOut (T : List Byte) (s : State) : (append T s).encOut = s.encOut := rfl
@[simp] theorem append_inputs (T : List Byte) (s : State) : (append T s).inputs = s.inputs := rfl

/-! ### consume -/

@[simp] theorem consume_cfg (n : Nat) (s : State) : (consume n s).cfg = s.cfg := rfl
@[simp] theorem consume_rb (n : Nat) (s : State) : (consume n s).rb = s.rb.drop n := rfl
@[simp] theorem consume_closed (n : Nat) (s : State) : (consume n s).closed = s.closed := rfl
@[simp] theorem consume_viol (n : Nat) (s : State) : (consume n s).viol = s.viol := rfl
@[simp] theorem consume_fed (n : Nat) (s : State) : (consume n s).fed = s.fed := rfl
@[simp] theorem consume_consumed (n : Nat) (s : State) : (consume n s).consumed = s.consumed + n := rfl
@[simp] theorem consume_emitted (n : Nat) (s : State) : (consume n s).emitted = s.emitted := rfl
@[simp] theorem consume_inStream (n : Nat) (s : State) : (consume n s).inStream = s.inStream := rfl
@[simp] theorem consume_out (n : Nat) (s : State) : (consume n s).out = s.out := rfl
@[simp] theorem consume_rsp (n : Nat) (s : State) : (consume n s).rsp = s.rsp := rfl
@[simp] theorem consume_encOut (n : Nat) (s : State) : (consume n s).encOut = s.encOut := rfl
@[simp] theorem consume_inputs (n : Nat) (s : State) : (consume n s).inputs = s.inputs := rfl

/-! ### emit -/

@[simp] theorem emit_cfg (f : Frame) (s : State) : (emit f s).cfg = s.cfg := rfl
@[simp] theorem emit_rb (f : Frame) (s : State) : (emit f s).rb = s.rb := rfl
@[simp] theorem emit_closed (f : Frame) (s : State) : (emit f s).closed = s.closed := rfl
@[simp] theorem emit_viol (f : Frame) (s : State) : (emit f s).viol = s.viol := rfl
@[simp] theorem emit_fed (f : Frame) (s : State) : (emit f s).fed = s.fed := rfl
@[simp] theorem emit_consumed (f : Frame) (s : State) : (emit f s).consumed = s.consumed := rfl
@[simp] theorem emit_emitted (f : Frame) (s : State) : (emit f s).emitted = s.emitted + 1 := rfl
@[simp] theorem emit_inStream (f : Frame) (s : State) : (emit f s).inStream = s.inStream := rfl
@[simp] theorem emit_out (f : Frame) (s : State) : (emit f s).out = s.out ++ [f] := rfl
@[simp] theorem emit_rsp (f : Frame) (s : State) : (emit f s).rsp = s.rsp := rfl
@[simp] theorem emit_encOut (f : Frame) (s : State) : (emit f s).encOut = s.encOut := rfl
@[simp] theorem emit_inputs (f : Frame) (s : State) : (emit f s).inputs = s.inputs := rfl

/-! ### setClosed -/

@[simp] theorem setClosed_cfg (s : State) : (setClosed s).cfg = s.cfg := rfl
@[simp] theorem setClosed_rb (s : State) : (setClosed s).rb = s.rb := rfl
@[simp] theorem setClosed_closed (s : State) : (setClosed s).closed = true := rfl
@[simp] theorem setClosed_viol (s : State) : (setClosed s).viol = s.viol := rfl
@[simp] theorem setClosed_fed (s : State) : (setClosed s).fed = s.fed := rfl
@[simp] theorem setClosed_consumed (s : State) : (setClosed s).consumed = s.consumed := rfl
@[simp] theorem setClosed_emitted (s : State) : (setClosed s).emitted = s.emitted := rfl
@[simp] theorem setClosed_inStream (s : State) : (setClosed s).inStream = s.inStream := rfl
@[simp] theorem setClosed_out (s : State) : (setClosed s).out = s.out := rfl
@[simp] theorem setClosed_rsp (s : State) : (setClosed s).rsp = s.rsp := rfl
@[simp] theorem setClosed_encOut (s : State) : (setClosed s).encOut = s.encOut := rfl
@[simp] theorem setClosed_inputs (s : State) : (setClosed s).inputs = s.inputs := rfl

/-! ### setViol -/

@[simp] theorem setViol_cfg (s : State) : (setViol s).cfg = s.cfg := rfl
@[simp] theorem setViol_rb (s : State) : (setViol s).rb = s.rb := rfl
@[simp] theorem setViol_closed (s : State) : (setViol s).closed = s.closed := rfl
@[simp] theorem setViol_viol (s : State) : (setViol s).viol = true := rfl
@[simp] theorem setViol_fed (s : State) : (setViol s).fed = s.fed := rfl
@[simp] theorem setViol_consumed (s : State) : (setViol s).consumed = s.consumed := rfl
@[simp] theorem setViol_emitted (s : State) : (setViol s).emitted = s.emitted := rfl
@[simp] theorem setViol_inStream (s : State) : (setViol s).inStream = s.inStream := rfl
@[simp] theorem setViol_out (s : State) : (setViol s).out = s.out := rfl
@[simp] theorem setViol_rsp (s : State) : (setViol s).rsp = s.rsp := rfl
@[simp] theorem setViol_encOut (s : State) : (setViol s).encOut = s.encOut := rfl
@[simp] theorem setViol_inputs (s : State) : (setViol s).inputs = s.inputs := rfl

/-! ### sendOut -/

@[simp] theorem sendOut_cfg (bytes : List Byte) (s : State) : (sendOut bytes s).cfg = s.cfg := rfl
@[simp] theorem sendOut_rb (bytes : List Byte) (s : State) : (sendOut bytes s).rb = s.rb := rfl
@[simp] theorem sendOut_closed (bytes : List Byte) (s : State) : (sendOut bytes s).closed = s.closed := rfl
@[simp] theorem sendOut_viol (bytes : List Byte) (s : State) : (sendOut bytes s).viol = s.viol := rfl
@[simp] theorem sendOut_fed (bytes : List Byte) (s : State) : (sendOut bytes s).fed = s.fed := rfl
@[simp] theorem sendOut_consumed (bytes : List Byte) (s : State) : (sendOut bytes s).consumed = s.consumed := rfl
@[simp] theorem sendOut_emitted (bytes : List Byte) (s : State) : (sendOut bytes s).emitted = s.emitted := rfl
@[simp] theorem sendOut_inStream (bytes : List Byte) (s : State) : (sendOut bytes s).inStream = s.inStream := rfl
@[simp] theorem sendOut_out (bytes : List Byte) (s : State) : (sendOut bytes s).out = s.out := rfl
@[simp] theorem sendOut_rsp (bytes : List Byte) (s : State) : (sendOut bytes s).rsp = s.rsp := rfl
@[simp] theorem sendOut_encOut (bytes : List Byte) (s : State) : (sendOut bytes s).encOut = s.encOut ++ [bytes] := rfl
@[simp] theorem sendOut_inputs (bytes : List Byte) (s : State) : (sendOut bytes s).inputs = s.inputs := rfl

/-! ### resetDec -/

@[simp] theorem resetDec_cfg (s : State) : (resetDec s).cfg = s.cfg := rfl
@[simp] theorem resetDec_rb (s : State) : (resetDec s).rb = [] := rfl
@[simp] theorem resetDec_closed (s : State) : (resetDec s).closed = false := rfl
@[simp] theorem resetDec_viol (s : State) : (resetDec s).viol = false := rfl
@[simp] theorem resetDec_fed (s : State) : (resetDec s).fed = 0 := rfl
@[simp] theorem resetDec_consumed (s : State) : (resetDec s).consumed = 0 := rfl
@[simp] theorem resetDec_emitted (s : State) : (resetDec s).emitted = 0 := rfl
@[simp] theorem resetDec_inStream (s : State) : (resetDec s).inStream = [] := rfl
@[simp] theorem resetDec_out (s : State) : (resetDec s).out = [] := rfl
@[simp] theorem resetDec_rsp (s : State) : (resetDec s).rsp = none := rfl
@[simp] theorem resetDec_encOut (s : State) : (resetDec s).encOut = s.encOut := rfl
@[simp] theorem resetDec_inputs (s : State) : (resetDec s).inputs = s.inputs := rfl

/-! ### popInput -/

@[simp] theorem popInput_cfg (s : State) : (popInput s).cfg = s.cfg := rfl
@[simp] theorem popInput_rb (s : State) : (popInput s).rb = s.rb := rfl
@[simp] theorem popInput_closed (s : State) : (popInput s).closed = s.closed := rfl
@[simp] theorem popInput_viol (s : State) : (popInput s).viol = s.viol := rfl
@[simp] theorem popInput_fed (s : State) : (popInput s).fed = s.fed := rfl
@[simp] theorem popInput_consumed (s : State) : (popInput s).consumed = s.consumed := rfl
@[simp] theorem popInput_emitted (s : State) : (popInput s).emitted = s.emitted := rfl
@[simp] theorem popInput_inStream (s : State) : (popInput s).inStream = s.inStream := rfl
@[simp] theorem popInput_out (s : State) : (popInput s).out = s.out := rfl
@[simp] theorem popInput_rsp (s : State) : (popInput s).rsp = s.rsp := rfl
@[simp] theorem popInput_encOut (s : State) : (popInput s).encOut = s.encOut := rfl
@[simp] theorem popInput_inputs (s : State) : (popInput s).inputs = s.inputs.tail := rfl

end Sys2Proof.Machine
end

