-- ==== Sys2Proof/Laws/Ops.lean ====
section
/-! SUPPORT. One lemma per shared operation that says once everything it can do, and the bound of the Receive Buffer,
which every operation keeps (10_state.md R22). -/

namespace Sys2Proof.Machine

/-! ### Reads -/

theorem memRead_length (a n : Nat) (s : State) (h : a + n ≤ s.rb.length) : (memRead a n s).length = n := by
  rw [memRead, List.length_take, List.length_drop]
  omega

/-- `MemRead(a, n)[i]` is `RB[a + i]`. -/
theorem memRead_getElem? (a n i : Nat) (s : State) (h : i < n) : (memRead a n s)[i]? = s.rb[a + i]? := by
  rw [memRead, List.getElem?_take_of_lt h, List.getElem?_drop]

/-! ### Raising a fault (R189) -/

theorem raise_streamClosed (s : State) :
    raise .streamClosed s = { s with closed := true, rsp := some .streamClosed } := rfl

theorem raise_protocolViolation (length type : Half) (s : State) :
    raise (.protocolViolation length type) s =
      { s with viol := true, rsp := some (.protocolViolation length type) } := rfl

/-! ### FEED_BYTE (R56, R101) -/

theorem feedOne_of_room (b : Byte) (s : State) (h : hasRoom s = true) :
    feedOne b s =
      { s with rb := s.rb ++ [b], fed := s.fed + 1, inStream := s.inStream ++ [b], rsp := some .ok } := by
  rw [feedOne, if_pos h]
  rfl

theorem feedOne_of_full (b : Byte) (s : State) (h : hasRoom s = false) : feedOne b s = s := by
  rw [feedOne, h]
  rfl

theorem hasRoom_iff_lt (s : State) (n : Nat) (h : s.cfg.rbCap = .finite n) :
    hasRoom s = true ↔ s.rb.length < n := by
  rw [hasRoom, h, Bound.admits, decide_eq_true_eq]
  omega

/-! ### One pass of the drain loop (R103, R187) -/

theorem deliver_eq (length type : Half) (s : State) :
    deliver length type s =
      { s with
        rb := s.rb.drop (frameTotal length)
        consumed := s.consumed + frameTotal length
        out := s.out ++ [⟨length, type, memRead 4 (frameTotal length - 4) s⟩]
        emitted := s.emitted + 1
        rsp := some (.frame ⟨length, type, memRead 4 (frameTotal length - 4) s⟩) } := rfl

theorem drainPass_of_short (length type : Half) (s : State) (h : s.rb.length < 4) :
    drainPass length type s = respond .stall s := if_pos h

theorem drainPass_of_illegal (length type : Half) (s : State) (h : 4 ≤ s.rb.length)
    (hl : legalLength s.cfg length = false) :
    drainPass length type s = raise (.protocolViolation length type) s := by
  rw [drainPass, if_neg (by simp only [headerSize_eq]; omega), if_pos hl]

theorem drainPass_of_partial (length type : Half) (s : State) (h : 4 ≤ s.rb.length)
    (hl : legalLength s.cfg length = true) (hp : s.rb.length < frameTotal length) :
    drainPass length type s = respond .stall s := by
  rw [drainPass, if_neg (by simp only [headerSize_eq]; omega), hl, if_neg (by decide), if_pos hp]

theorem drainPass_of_whole (length type : Half) (s : State) (hl : legalLength s.cfg length = true)
    (hw : frameTotal length ≤ s.rb.length) : drainPass length type s = deliver length type s := by
  have h2 := ((legalLength_iff _ _).1 hl).1
  rw [frameTotal_eq] at hw
  rw [drainPass, if_neg (by simp only [headerSize_eq]; omega), hl, if_neg (by decide),
    if_neg (by rw [frameTotal_eq]; omega)]

/-- Everything a pass can do, with the condition of each outcome, in the order of R187. -/
theorem drainPass_cases (length type : Half) (s : State) :
    (s.rb.length < 4 ∧ drainPass length type s = respond .stall s) ∨
    (4 ≤ s.rb.length ∧ legalLength s.cfg length = false ∧
      drainPass length type s = raise (.protocolViolation length type) s) ∨
    (4 ≤ s.rb.length ∧ legalLength s.cfg length = true ∧ s.rb.length < frameTotal length ∧
      drainPass length type s = respond .stall s) ∨
    (legalLength s.cfg length = true ∧ frameTotal length ≤ s.rb.length ∧
      drainPass length type s = deliver length type s) := by
  by_cases h : s.rb.length < 4
  · exact .inl ⟨h, drainPass_of_short _ _ _ h⟩
  · cases hl : legalLength s.cfg length
    · exact .inr (.inl ⟨by omega, rfl, drainPass_of_illegal _ _ _ (by omega) hl⟩)
    · by_cases hp : s.rb.length < frameTotal length
      · exact .inr (.inr (.inl ⟨by omega, rfl, hp, drainPass_of_partial _ _ _ (by omega) hl hp⟩))
      · exact .inr (.inr (.inr ⟨rfl, by omega, drainPass_of_whole _ _ _ hl (by omega)⟩))

/-- What no pass changes. -/
theorem drainPass_frame (length type : Half) (s : State) :
    (drainPass length type s).cfg = s.cfg ∧ (drainPass length type s).closed = s.closed ∧
    (drainPass length type s).fed = s.fed ∧ (drainPass length type s).inStream = s.inStream ∧
    (drainPass length type s).encOut = s.encOut ∧ (drainPass length type s).inputs = s.inputs := by
  rcases drainPass_cases length type s with ⟨_, h⟩ | ⟨_, _, h⟩ | ⟨_, _, _, h⟩ | ⟨_, _, h⟩ <;> rw [h] <;>
    exact ⟨rfl, rfl, rfl, rfl, rfl, rfl⟩

/-- The bytes a delivery removes are the bytes of the Frame it delivers, when the fields are those at the head. -/
theorem deliver_wire (s : State) (hl : 2 ≤ (hdrLength s).toNat) (hw : hdrTotal s ≤ s.rb.length) :
    Frame.wire ⟨hdrLength s, hdrType s, memRead 4 (hdrTotal s - 4) s⟩ = s.rb.take (hdrTotal s) := by
  rw [hdrTotal, frameTotal_eq] at *
  rw [Frame.wire, hdrLength, hdrType, ← take_four_eq_headerBytes s.rb (by omega), memRead]
  have e : 2 + (be16 s.rb 0).toNat = 4 + (2 + (be16 s.rb 0).toNat - 4) := by
    rw [hdrLength] at hl
    omega
  conv_rhs => rw [e, List.take_add]

/-! ### The bound of the Receive Buffer -/

theorem feedOne_withinCap (b : Byte) (s : State) (h : s.cfg.rbCap.admits s.rb.length = true) :
    (feedOne b s).cfg.rbCap.admits (feedOne b s).rb.length = true := by
  cases hr : hasRoom s
  · rw [feedOne_of_full b s hr]
    exact h
  · rw [feedOne_of_room b s hr]
    simpa [hasRoom] using hr

theorem drainPass_withinCap (length type : Half) (s : State) (h : s.cfg.rbCap.admits s.rb.length = true) :
    (drainPass length type s).cfg.rbCap.admits (drainPass length type s).rb.length = true := by
  rcases drainPass_cases length type s with ⟨_, e⟩ | ⟨_, _, e⟩ | ⟨_, _, _, e⟩ | ⟨_, _, e⟩ <;> rw [e]
  · exact h
  · exact h
  · exact h
  · exact Bound.admits_of_le (by rw [deliver_eq]; simp) h

end Sys2Proof.Machine
end

