-- ==== Sys2Proof/Laws/PerInstr.lean ====
section
/-! SUPPORT. A family of statements over the instructions: the encoding of a well-formed instruction satisfies
`w & mask = match` for the row of the opcode table that bears its mnemonic (30_encoding.md R77, R79, R82, R90). The
table is written out here a second time, apart from the decoder's rows. -/

namespace Sys2Proof.Laws.EncodedMatchesRow

/-- The `mask` and `match` of a row, by its format (R90). -/
inductive TableRow where
  | cmd (mask value : CmdWord)
  | encReq
  | frame (mask value : HeaderWord)
  deriving DecidableEq, Repr

/-- The encoding is a word of the row's format and selects the row. -/
def TableRow.selectedBy : TableRow → Encoding → Prop
  | .cmd mask value, .cmd w => w &&& mask = value
  | .encReq, .encReq _ _ => True
  | .frame mask value, .stream bytes => headerWord bytes &&& mask = value
  | _, _ => False

/-- The row of spec/opcode_table.json with the instruction's mnemonic. -/
def rowOf : Instr → TableRow
  | .feedByte _ => .cmd 0x300 0x000
  | .feedEof _ => .cmd 0x300 0x100
  | .extract _ => .cmd 0x300 0x200
  | .reservedCmd _ => .cmd 0x300 0x300
  | .encode _ _ => .encReq
  | .illegalLengthLow _ _ => .frame 0xFFFE0000 0x00000000
  | .illegalLengthHigh0403 _ _ => .frame 0xFFFF0000 0x04030000
  | .illegalLengthHigh0404 _ _ => .frame 0xFFFC0000 0x04040000
  | .illegalLengthHigh0408 _ _ => .frame 0xFFF80000 0x04080000
  | .illegalLengthHigh0410 _ _ => .frame 0xFFF00000 0x04100000
  | .illegalLengthHigh0420 _ _ => .frame 0xFFE00000 0x04200000
  | .illegalLengthHigh0440 _ _ => .frame 0xFFC00000 0x04400000
  | .illegalLengthHigh0480 _ _ => .frame 0xFF800000 0x04800000
  | .illegalLengthHigh0500 _ _ => .frame 0xFF000000 0x05000000
  | .illegalLengthHigh0600 _ _ => .frame 0xFE000000 0x06000000
  | .illegalLengthHigh0800 _ _ => .frame 0xF8000000 0x08000000
  | .illegalLengthHigh1000 _ _ => .frame 0xF0000000 0x10000000
  | .illegalLengthHigh2000 _ _ => .frame 0xE0000000 0x20000000
  | .illegalLengthHigh4000 _ _ => .frame 0xC0000000 0x40000000
  | .illegalLengthHigh8000 _ _ => .frame 0x80000000 0x80000000
  | .chat _ => .frame 0x0000FFFF 0x00000001
  | .joinRoom _ => .frame 0x0000FFFF 0x00000002
  | .leaveRoom _ => .frame 0x0000FFFF 0x00000003
  | .opaqueFrame _ _ => .frame 0x00000000 0x00000000

/-- A well-formed instruction's encoding selects its own row. -/
def Statement (i : Instr) : Prop := ∀ c : Config, i.wellFormed c = true → (rowOf i).selectedBy (encode i)

/-- The `data` bits of a command word lie under no mask of the table. -/
theorem cmdWord_masked (op : BitVec 2) (data : Byte) (value : CmdWord) (h : cmdWord op 0 = value) :
    cmdWord op data &&& 0x300 = value := by
  subst h
  revert op data
  decide

/-- A header in a row's block selects the row whose mask is the ones above the block's size. -/
theorem header_masked (mask value : HeaderWord) (n k lo hi : Nat) (hm : mask.toNat = (2 ^ n - 1) <<< k)
    (hk : n + k = 32) (hlo : value.toNat = lo * 65536) (hhi : lo * 65536 + 2 ^ k = (hi + 1) * 65536)
    (hdvd : lo * 65536 % 2 ^ k = 0) {length : Half} (type : Half) (h : inBlock lo hi length = true) :
    headerWord (headerBytes length type) &&& mask = value := by
  have hs := selects_block ⟨mask, value, .opaqueFrame⟩ n k lo hi hm hk hlo hhi hdvd (headerWordOf length type)
  rw [inBlock, Bool.and_eq_true, decide_eq_true_eq, decide_eq_true_eq] at h
  rw [wordLength_headerWordOf] at hs
  have := hs.2 h
  rw [FrameRow.selects, beq_iff_eq] at this
  rw [← List.append_nil (headerBytes length type), headerWord_headerBytes]
  exact this

/-- A header of an assigned type selects the type's row. -/
theorem type_masked (length type : Half) :
    headerWord (headerBytes length type) &&& 0x0000FFFF = headerWordOf 0 type := by
  rw [← List.append_nil (headerBytes length type), headerWord_headerBytes]
  have := type.isLt
  apply BitVec.eq_of_toNat_eq
  rw [BitVec.toNat_and, headerWordOf_toNat, headerWordOf_toNat]
  show _ &&& (2 ^ 16 - 1) = _
  rw [Nat.and_two_pow_sub_one_eq_mod]
  have h0 : (0 : Half).toNat = 0 := rfl
  omega

theorem feedByte (b : Byte) : Statement (.feedByte b) := fun _ _ => cmdWord_masked 0 b 0x000 (by decide)
theorem feedEof (data : Byte) : Statement (.feedEof data) := fun _ _ => cmdWord_masked 1 data 0x100 (by decide)
theorem extract (data : Byte) : Statement (.extract data) := fun _ _ => cmdWord_masked 2 data 0x200 (by decide)
theorem reservedCmd (data : Byte) : Statement (.reservedCmd data) := fun _ _ => cmdWord_masked 3 data 0x300 (by decide)
theorem encode (type : Half) (payload : List Byte) : Statement (.encode type payload) := fun _ _ => trivial
theorem illegalLengthLow (length type : Half) : Statement (.illegalLengthLow length type) :=
  fun _ h => header_masked 0xFFFE0000 0 15 17 0 1 (by decide) rfl rfl rfl rfl type h
theorem illegalLengthHigh0403 (length type : Half) : Statement (.illegalLengthHigh0403 length type) :=
  fun _ h => header_masked _ _ 16 16 0x0403 0x0403 (by decide) rfl rfl rfl rfl type h
theorem illegalLengthHigh0404 (length type : Half) : Statement (.illegalLengthHigh0404 length type) :=
  fun _ h => header_masked _ _ 14 18 0x0404 0x0407 (by decide) rfl rfl rfl rfl type h
theorem illegalLengthHigh0408 (length type : Half) : Statement (.illegalLengthHigh0408 length type) :=
  fun _ h => header_masked _ _ 13 19 0x0408 0x040F (by decide) rfl rfl rfl rfl type h
theorem illegalLengthHigh0410 (length type : Half) : Statement (.illegalLengthHigh0410 length type) :=
  fun _ h => header_masked _ _ 12 20 0x0410 0x041F (by decide) rfl rfl rfl rfl type h
theorem illegalLengthHigh0420 (length type : Half) : Statement (.illegalLengthHigh0420 length type) :=
  fun _ h => header_masked _ _ 11 21 0x0420 0x043F (by decide) rfl rfl rfl rfl type h
theorem illegalLengthHigh0440 (length type : Half) : Statement (.illegalLengthHigh0440 length type) :=
  fun _ h => header_masked _ _ 10 22 0x0440 0x047F (by decide) rfl rfl rfl rfl type h
theorem illegalLengthHigh0480 (length type : Half) : Statement (.illegalLengthHigh0480 length type) :=
  fun _ h => header_masked _ _ 9 23 0x0480 0x04FF (by decide) rfl rfl rfl rfl type h
theorem illegalLengthHigh0500 (length type : Half) : Statement (.illegalLengthHigh0500 length type) :=
  fun _ h => header_masked _ _ 8 24 0x0500 0x05FF (by decide) rfl rfl rfl rfl type h
theorem illegalLengthHigh0600 (length type : Half) : Statement (.illegalLengthHigh0600 length type) :=
  fun _ h => header_masked _ _ 7 25 0x0600 0x07FF (by decide) rfl rfl rfl rfl type h
theorem illegalLengthHigh0800 (length type : Half) : Statement (.illegalLengthHigh0800 length type) :=
  fun _ h => header_masked _ _ 5 27 0x0800 0x0FFF (by decide) rfl rfl rfl rfl type h
theorem illegalLengthHigh1000 (length type : Half) : Statement (.illegalLengthHigh1000 length type) :=
  fun _ h => header_masked _ _ 4 28 0x1000 0x1FFF (by decide) rfl rfl rfl rfl type h
theorem illegalLengthHigh2000 (length type : Half) : Statement (.illegalLengthHigh2000 length type) :=
  fun _ h => header_masked _ _ 3 29 0x2000 0x3FFF (by decide) rfl rfl rfl rfl type h
theorem illegalLengthHigh4000 (length type : Half) : Statement (.illegalLengthHigh4000 length type) :=
  fun _ h => header_masked _ _ 2 30 0x4000 0x7FFF (by decide) rfl rfl rfl rfl type h
theorem illegalLengthHigh8000 (length type : Half) : Statement (.illegalLengthHigh8000 length type) :=
  fun _ h => header_masked _ _ 1 31 0x8000 0xFFFF (by decide) rfl rfl rfl rfl type h
theorem chat (length : Half) : Statement (.chat length) := fun _ _ => type_masked length typeChat
theorem joinRoom (length : Half) : Statement (.joinRoom length) := fun _ _ => type_masked length typeJoinRoom
theorem leaveRoom (length : Half) : Statement (.leaveRoom length) := fun _ _ => type_masked length typeLeaveRoom
theorem opaqueFrame (length type : Half) : Statement (.opaqueFrame length type) := fun _ _ => BitVec.and_zero

end Sys2Proof.Laws.EncodedMatchesRow
end

