-- ==== Sys2Proof/Laws/Step.lean ====
section
/-! SUPPORT. What an instruction and a step can do, said once each: later proofs split these cases and do not unfold
`exec` or `step`. -/

namespace Sys2Proof.Machine

/-- Everything an instruction can do: append a byte or hold it, raise StreamClosed, one pass of the drain loop, refuse
the reserved command, send a frame out. -/
theorem exec_cases {i : Instr} {s t : State} (h : exec i s = .next t) :
    (∃ b, i = .feedByte b ∧ t = feedOne b s) ∨
    (∃ d, i = .feedEof d ∧ t = raise .streamClosed s) ∨
    (∃ d, i = .extract d ∧ t = drainPass (hdrLength s) (hdrType s) s) ∨
    (∃ d, i = .reservedCmd d ∧ t = respond .refused s) ∨
    (∃ ty p, i = .encode ty p ∧ t = sendOut (encodeFrame s.cfg.maxPayload ty p) s) ∨
    (∃ l ty, i.header = some (l, ty) ∧ t = drainPass l ty s) := by
  cases i with
  | feedByte b => exact .inl ⟨b, rfl, (Host.Outcome.next.inj h).symm⟩
  | feedEof d => exact .inr (.inl ⟨d, rfl, (Host.Outcome.next.inj h).symm⟩)
  | extract d =>
    refine .inr (.inr (.inl ⟨d, rfl, ?_⟩))
    rw [← be16_peek4_length, ← be16_peek4_type]
    exact (Host.Outcome.next.inj h).symm
  | reservedCmd d => exact .inr (.inr (.inr (.inl ⟨d, rfl, (Host.Outcome.next.inj h).symm⟩)))
  | encode ty p => exact .inr (.inr (.inr (.inr (.inl ⟨ty, p, rfl, (Host.Outcome.next.inj h).symm⟩))))
  | _ => exact .inr (.inr (.inr (.inr (.inr ⟨_, _, rfl, (Host.Outcome.next.inj h).symm⟩))))

/-- EXTRACT is one pass over the header view of R30. -/
theorem exec_extract (d : Byte) (s : State) :
    exec (.extract d) s = .next (drainPass (hdrLength s) (hdrType s) s) := by
  rw [← be16_peek4_length, ← be16_peek4_type]
  rfl

/-- Everything a step that answers a next state can do. -/
theorem step_cases {s t : State} (h : step s = .next t) :
    (s.inputs = [] ∧ t = s) ∨
    (∃ offered rest, s.inputs = .rst offered :: rest ∧ t = resetDec (popInput s)) ∨
    (∃ w rest, s.inputs = .cmd w :: rest ∧ exec (decodeCmd w) (popInput s) = .next t) ∨
    (∃ ty p rest, s.inputs = .encRequest ty p :: rest ∧
      s.cfg.encInMax.admits (payloadOperand p).length = true ∧
      exec (.encode ty (payloadOperand p)) (popInput s) = .next t) := by
  unfold step fetch at h
  match hi : s.inputs with
  | [] =>
    rw [hi] at h
    exact .inl ⟨rfl, (Host.Outcome.next.inj h).symm⟩
  | .rst offered :: rest =>
    rw [hi] at h
    exact .inr (.inl ⟨offered, rest, rfl, (Host.Outcome.next.inj h).symm⟩)
  | .cmd w :: rest =>
    rw [hi] at h
    exact .inr (.inr (.inl ⟨w, rest, rfl, h⟩))
  | .clash _ _ :: _ =>
    rw [hi] at h
    cases h
  | .encRequest ty p :: rest =>
    rw [hi] at h
    cases ha : s.cfg.encInMax.admits (payloadOperand p).length
    · simp only [fetchEncode, ha] at h
      cases h
    · simp only [fetchEncode, ha, if_true] at h
      exact .inr (.inr (.inr ⟨ty, p, rest, rfl, ha, h⟩))

end Sys2Proof.Machine
end

