-- ==== Sys2Proof/Laws/Run.lean ====
section
/-! SUPPORT. The sequences of operations: what a run does, said at its last operation, and the two cases of feeding a
chunk. -/

namespace Sys2Proof.Machine

/-! ### Feeding a chunk (R104) -/

@[simp] theorem feedChunk_none (s : State) :
    feedChunk none s = (.streamClosed, { s with closed := true, rsp := some .streamClosed }) := rfl

@[simp] theorem feedChunk_empty (s : State) :
    feedChunk (some []) s = (.streamClosed, { s with closed := true, rsp := some .streamClosed }) := rfl

theorem feedChunk_of_ne_nil (bytes : List Byte) (s : State) (h : bytes ≠ []) :
    feedChunk (some bytes) s = feedFlow bytes s := by
  cases bytes with
  | nil => exact absurd rfl h
  | cons b bs => rfl

/-! ### Sequences of operations -/

@[simp] theorem performAll_nil (s : State) : performAll [] s = s := rfl

@[simp] theorem performAll_cons (i : Instr) (is : List Instr) (s : State) :
    performAll (i :: is) s = performAll is (perform i s) := rfl

theorem performAll_append (is js : List Instr) (s : State) :
    performAll (is ++ js) s = performAll js (performAll is s) := by
  induction is generalizing s with
  | nil => rfl
  | cons i is ih => exact ih (perform i s)

theorem drainStands_append (is js : List Instr) (s : State) (stands : Bool) :
    drainStands (is ++ js) s stands = drainStands js (performAll is s) (drainStands is s stands) := by
  induction is generalizing s stands with
  | nil => rfl
  | cons i is ih => exact ih (perform i s) _

/-! ### Steps -/

theorem steps_of_step (n : Nat) {s t : State} (h : step s = .next t) : steps (n + 1) s = steps n t := by
  rw [steps, h]

/-- A RESET ends the operations to come, and so does the end of the events. -/
theorem operationsToCome_append (es rest : List HostEvent) (h : rest = [] ∨ ∃ o more, rest = .rst o :: more) :
    operationsToCome (es ++ rest) = operationsToCome es := by
  induction es with
  | nil => rcases h with rfl | ⟨o, more, rfl⟩ <;> rfl
  | cons e es ih => cases e <;> simp [operationsToCome, ih]

/-! ### The last operation of a run -/

theorem Run.final_snoc (c : Config) (is : List Instr) (i : Instr) :
    (Run.mk c (is ++ [i])).final = perform i (Run.mk c is).final :=
  performAll_append is [i] _

/-- A drain stands after one more operation if no byte was accepted and it stood before or a STALL was answered. -/
theorem Run.drained_snoc (c : Config) (is : List Instr) (i : Instr) :
    (Run.mk c (is ++ [i])).drained =
      ((perform i (Run.mk c is).final).fed == (Run.mk c is).final.fed &&
        ((Run.mk c is).drained || (perform i (Run.mk c is).final).rsp == some .stall)) :=
  drainStands_append is [i] _ _

end Sys2Proof.Machine
end

