-- ==== Sys2Proof/Tests/Slice0.lean ====
section
/-! SUPPORT. Tests. The expected results are the spec's: the encodings of 30_encoding.md, the vectors F, X, V4, V5, S and
G of 95_test_vectors.md (named in the docstrings), and hand calculation from the rules. After them, for every statement
with hypotheses, a concrete state and operands that meet them. -/

namespace Sys2Proof.Tests

open Sys2Proof Sys2Proof.Machine

/-! ### Decoding: one word for every constructor, written out from its encoding -/

theorem test_decode_feedByte : decode (.cmd 0b00_01101000) = .instr (.feedByte 0x68) := by decide
theorem test_decode_feedEof : decode (.cmd 0b01_10100101) = .instr (.feedEof 0xA5) := by decide
theorem test_decode_extract : decode (.cmd 0b10_11111111) = .instr (.extract 0xFF) := by decide
theorem test_decode_reservedCmd : decode (.cmd 0b11_00000000) = .instr (.reservedCmd 0x00) := by decide
theorem test_decode_encode : decodeTableWord 0 0 = some (.encode 0 []) := by decide
theorem test_decode_illegalLengthLow :
    decode (.stream [0x00, 0x01, 0x00, 0x02]) = .instr (.illegalLengthLow 1 2) := by decide
theorem test_decode_illegalLengthHigh0403 :
    decode (.stream [0x04, 0x03, 0x00, 0x01]) = .instr (.illegalLengthHigh0403 0x0403 1) := by decide
theorem test_decode_illegalLengthHigh0404 :
    decode (.stream [0x04, 0x07, 0x00, 0x01]) = .instr (.illegalLengthHigh0404 0x0407 1) := by decide
theorem test_decode_illegalLengthHigh0408 :
    decode (.stream [0x04, 0x08, 0x00, 0x01]) = .instr (.illegalLengthHigh0408 0x0408 1) := by decide
theorem test_decode_illegalLengthHigh0410 :
    decode (.stream [0x04, 0x1F, 0x00, 0x01]) = .instr (.illegalLengthHigh0410 0x041F 1) := by decide
theorem test_decode_illegalLengthHigh0420 :
    decode (.stream [0x04, 0x20, 0x00, 0x01]) = .instr (.illegalLengthHigh0420 0x0420 1) := by decide
theorem test_decode_illegalLengthHigh0440 :
    decode (.stream [0x04, 0x7F, 0x00, 0x01]) = .instr (.illegalLengthHigh0440 0x047F 1) := by decide
theorem test_decode_illegalLengthHigh0480 :
    decode (.stream [0x04, 0x80, 0x00, 0x01]) = .instr (.illegalLengthHigh0480 0x0480 1) := by decide
theorem test_decode_illegalLengthHigh0500 :
    decode (.stream [0x05, 0xFF, 0x00, 0x01]) = .instr (.illegalLengthHigh0500 0x05FF 1) := by decide
theorem test_decode_illegalLengthHigh0600 :
    decode (.stream [0x06, 0x00, 0x00, 0x01]) = .instr (.illegalLengthHigh0600 0x0600 1) := by decide
theorem test_decode_illegalLengthHigh0800 :
    decode (.stream [0x0F, 0xFF, 0x00, 0x01]) = .instr (.illegalLengthHigh0800 0x0FFF 1) := by decide
theorem test_decode_illegalLengthHigh1000 :
    decode (.stream [0x10, 0x00, 0x00, 0x01]) = .instr (.illegalLengthHigh1000 0x1000 1) := by decide
theorem test_decode_illegalLengthHigh2000 :
    decode (.stream [0x3F, 0xFF, 0x00, 0x01]) = .instr (.illegalLengthHigh2000 0x3FFF 1) := by decide
theorem test_decode_illegalLengthHigh4000 :
    decode (.stream [0x40, 0x00, 0x00, 0x01]) = .instr (.illegalLengthHigh4000 0x4000 1) := by decide
theorem test_decode_illegalLengthHigh8000 :
    decode (.stream [0xFF, 0xFF, 0x00, 0x01]) = .instr (.illegalLengthHigh8000 0xFFFF 1) := by decide
theorem test_decode_chat : decode (.stream [0x00, 0x07, 0x00, 0x01]) = .instr (.chat 7) := by decide
theorem test_decode_joinRoom : decode (.stream [0x00, 0x02, 0x00, 0x02]) = .instr (.joinRoom 2) := by decide
theorem test_decode_leaveRoom : decode (.stream [0x04, 0x02, 0x00, 0x03]) = .instr (.leaveRoom 1026) := by decide
theorem test_decode_opaqueFrame :
    decode (.stream [0x00, 0x03, 0x12, 0x34]) = .instr (.opaqueFrame 3 0x1234) := by decide

/-- V4: an illegal `length` is tried before the type. -/
theorem test_decode_length_before_type : decodeTableWord 32 0x00000001 = some (.illegalLengthLow 0 1) := by decide

/-- R79: `length` is unsigned, `0x8000` is not negative. -/
theorem test_decode_unsigned_length : decodeTableWord 32 0x80000003 = some (.illegalLengthHigh8000 32768 3) := by decide

/-- The word of a command stored in two whole bytes. -/
theorem test_decode_table_cmd : decodeTableWord 16 0x1A5 = some (.feedEof 0xA5) := by decide

/-- A bit above the ten of a command word makes it no word of the table. -/
theorem test_decode_table_cmd_too_wide : decodeTableWord 16 0x400 = none := by decide

/-- R111: three bytes are no header. -/
theorem test_decode_short_stream : decode (.stream [0x00, 0x00, 0x00]) = .rejected .headerNotBuffered := by decide

/-! ### WellFormed: an ill-formed term for each check -/

theorem test_illFormed_encode : (Instr.encode 1 [0, 0]).wellFormed ⟨1024, .inf, .finite 1⟩ = false := by decide
theorem test_illFormed_illegalLengthLow : (Instr.illegalLengthLow 2 1).wellFormed .document = false := by decide
theorem test_illFormed_illegalLengthHigh0403 :
    (Instr.illegalLengthHigh0403 0x0402 1).wellFormed .document = false ∧
      (Instr.illegalLengthHigh0403 0x0404 1).wellFormed .document = false := by decide
theorem test_illFormed_illegalLengthHigh0404 :
    (Instr.illegalLengthHigh0404 0x0403 1).wellFormed .document = false ∧
      (Instr.illegalLengthHigh0404 0x0408 1).wellFormed .document = false := by decide
theorem test_illFormed_illegalLengthHigh0408 :
    (Instr.illegalLengthHigh0408 0x0407 1).wellFormed .document = false ∧
      (Instr.illegalLengthHigh0408 0x0410 1).wellFormed .document = false := by decide
theorem test_illFormed_illegalLengthHigh0410 :
    (Instr.illegalLengthHigh0410 0x040F 1).wellFormed .document = false ∧
      (Instr.illegalLengthHigh0410 0x0420 1).wellFormed .document = false := by decide
theorem test_illFormed_illegalLengthHigh0420 :
    (Instr.illegalLengthHigh0420 0x041F 1).wellFormed .document = false ∧
      (Instr.illegalLengthHigh0420 0x0440 1).wellFormed .document = false := by decide
theorem test_illFormed_illegalLengthHigh0440 :
    (Instr.illegalLengthHigh0440 0x043F 1).wellFormed .document = false ∧
      (Instr.illegalLengthHigh0440 0x0480 1).wellFormed .document = false := by decide
theorem test_illFormed_illegalLengthHigh0480 :
    (Instr.illegalLengthHigh0480 0x047F 1).wellFormed .document = false ∧
      (Instr.illegalLengthHigh0480 0x0500 1).wellFormed .document = false := by decide
theorem test_illFormed_illegalLengthHigh0500 :
    (Instr.illegalLengthHigh0500 0x04FF 1).wellFormed .document = false ∧
      (Instr.illegalLengthHigh0500 0x0600 1).wellFormed .document = false := by decide
theorem test_illFormed_illegalLengthHigh0600 :
    (Instr.illegalLengthHigh0600 0x05FF 1).wellFormed .document = false ∧
      (Instr.illegalLengthHigh0600 0x0800 1).wellFormed .document = false := by decide
theorem test_illFormed_illegalLengthHigh0800 :
    (Instr.illegalLengthHigh0800 0x07FF 1).wellFormed .document = false ∧
      (Instr.illegalLengthHigh0800 0x1000 1).wellFormed .document = false := by decide
theorem test_illFormed_illegalLengthHigh1000 :
    (Instr.illegalLengthHigh1000 0x0FFF 1).wellFormed .document = false ∧
      (Instr.illegalLengthHigh1000 0x2000 1).wellFormed .document = false := by decide
theorem test_illFormed_illegalLengthHigh2000 :
    (Instr.illegalLengthHigh2000 0x1FFF 1).wellFormed .document = false ∧
      (Instr.illegalLengthHigh2000 0x4000 1).wellFormed .document = false := by decide
theorem test_illFormed_illegalLengthHigh4000 :
    (Instr.illegalLengthHigh4000 0x3FFF 1).wellFormed .document = false ∧
      (Instr.illegalLengthHigh4000 0x8000 1).wellFormed .document = false := by decide
theorem test_illFormed_illegalLengthHigh8000 :
    (Instr.illegalLengthHigh8000 0x7FFF 1).wellFormed .document = false := by decide
theorem test_illFormed_chat :
    (Instr.chat 1).wellFormed .document = false ∧ (Instr.chat 1027).wellFormed .document = false := by decide
theorem test_illFormed_joinRoom :
    (Instr.joinRoom 1).wellFormed .document = false ∧ (Instr.joinRoom 1027).wellFormed .document = false := by decide
theorem test_illFormed_leaveRoom :
    (Instr.leaveRoom 1).wellFormed .document = false ∧ (Instr.leaveRoom 1027).wellFormed .document = false := by decide
theorem test_illFormed_opaqueFrame :
    (Instr.opaqueFrame 1 4).wellFormed .document = false ∧ (Instr.opaqueFrame 1027 4).wellFormed .document = false ∧
      (Instr.opaqueFrame 2 1).wellFormed .document = false ∧ (Instr.opaqueFrame 2 2).wellFormed .document = false ∧
      (Instr.opaqueFrame 2 3).wellFormed .document = false := by decide

/-! ### One step -/

/-- A state in the vectors' notation `RB / CLOSED VIOL / FED CONSUMED EMITTED`. -/
def dec (rb : List Byte) (closed viol : Bool) (fed consumed emitted : Nat) : State :=
  { State.reset with rb := rb, closed := closed, viol := viol, fed := fed, consumed := consumed, emitted := emitted }

/-- What the vectors show of an outcome: the response and the state of DEC. -/
structure Shown where
  rsp : Option Response
  rb : List Byte
  closed : Bool
  viol : Bool
  fed : Nat
  consumed : Nat
  emitted : Nat
  deriving DecidableEq, Repr

def shown : Host.Outcome State Fault Refusal → Option Shown
  | .next t => some ⟨t.rsp, t.rb, t.closed, t.viol, t.fed, t.consumed, t.emitted⟩
  | .fault _ => none
  | .refused _ => none

/-- The bytes ENC returned in an outcome. -/
def sent : Host.Outcome State Fault Refusal → Option (List (List Byte))
  | .next t => some t.encOut
  | .fault _ => none
  | .refused _ => none

/-- Why an outcome is a refusal. -/
def refusal : Host.Outcome State Fault Refusal → Option Refusal
  | .next _ => none
  | .fault _ => none
  | .refused why => some why

/-- F3: feeding never parses. -/
theorem test_feedByte_does_not_parse : shown (exec (.feedByte 0x01) (dec [0, 0, 0] false false 3 0 0)) =
    some ⟨some .ok, [0, 0, 0, 1], false, false, 4, 0, 0⟩ := by decide

/-- F8, with the smallest buffer of `MAX_PAYLOAD = 0`. -/
theorem test_feedByte_held : shown (exec (.feedByte 0x07) { dec [0, 2, 0, 1] false false 4 0 0 with
    cfg := ⟨0, .finite 4, .inf⟩ }) = some ⟨none, [0, 2, 0, 1], false, false, 4, 0, 0⟩ := by decide

/-- F5. -/
theorem test_feedEof_leaves_buffer : shown (exec (.feedEof 0) (dec [0, 7, 0, 1, 0x68] false false 5 0 0)) =
    some ⟨some .streamClosed, [0, 7, 0, 1, 0x68], true, false, 5, 0, 0⟩ := by decide

/-- F7, with `data` set (V5). -/
theorem test_feedEof_after_violation : shown (exec (.feedEof 0xA5) (dec [0, 1, 0, 1] false true 4 0 0)) =
    some ⟨some .streamClosed, [0, 1, 0, 1], true, true, 4, 0, 0⟩ := by decide

/-- X12. -/
theorem test_extract_delivers :
    shown (exec (.extract 0) (dec [0, 7, 0, 1, 0x68, 0x65, 0x6C, 0x6C, 0x6F, 0, 2] false false 11 0 0)) =
    some ⟨some (.frame ⟨7, 1, [0x68, 0x65, 0x6C, 0x6C, 0x6F]⟩), [0, 2], false, false, 11, 9, 1⟩ := by decide

/-- X18: big-endian reading of a byte-swapped header. -/
theorem test_extract_byte_order : shown (exec (.extract 0) (dec [7, 0, 1, 0, 0x68] false false 5 0 0)) =
    some ⟨some (.protocolViolation 1792 256), [7, 0, 1, 0, 0x68], false, true, 5, 0, 0⟩ := by decide

/-- V5, `0x3FF`. -/
theorem test_reservedCmd : shown (exec (decodeCmd 0x3FF) (dec [0] false false 1 0 0)) =
    some ⟨some .refused, [0], false, false, 1, 0, 0⟩ := by decide

/-- E5. -/
theorem test_encode_byte_order :
    sent (exec (.encode 0x1234 [0xAA, 0xBB]) State.reset) = some [[0x00, 0x04, 0x12, 0x34, 0xAA, 0xBB]] := by decide

/-- R140 with `MAX_PAYLOAD = 1`: the second byte is cut and not counted. -/
theorem test_encode_truncates : sent (exec (.encode 0xFFFF [0xAA, 0xBB]) { State.reset with cfg := ⟨1, .inf, .inf⟩ }) =
    some [[0x00, 0x03, 0xFF, 0xFF, 0xAA]] := by decide

/-- X5. -/
theorem test_illegalLengthLow : shown (exec (.illegalLengthLow 1 1) (dec [0, 1, 0, 1] false false 4 0 0)) =
    some ⟨some (.protocolViolation 1 1), [0, 1, 0, 1], false, true, 4, 0, 0⟩ := by decide

/-- The fourteen rows of ILLEGAL_LENGTH_HIGH, each at the ends of its block (R167). -/
def highKinds : List (Instr × Half) :=
  [(.illegalLengthHigh0403 0x0403 9, 0x0403), (.illegalLengthHigh0403 0x0403 9, 0x0403),
    (.illegalLengthHigh0404 0x0404 9, 0x0404), (.illegalLengthHigh0404 0x0407 9, 0x0407),
    (.illegalLengthHigh0408 0x0408 9, 0x0408), (.illegalLengthHigh0408 0x040F 9, 0x040F),
    (.illegalLengthHigh0410 0x0410 9, 0x0410), (.illegalLengthHigh0410 0x041F 9, 0x041F),
    (.illegalLengthHigh0420 0x0420 9, 0x0420), (.illegalLengthHigh0420 0x043F 9, 0x043F),
    (.illegalLengthHigh0440 0x0440 9, 0x0440), (.illegalLengthHigh0440 0x047F 9, 0x047F),
    (.illegalLengthHigh0480 0x0480 9, 0x0480), (.illegalLengthHigh0480 0x04FF 9, 0x04FF)] ++
  [(.illegalLengthHigh0500 0x0500 9, 0x0500), (.illegalLengthHigh0500 0x05FF 9, 0x05FF),
    (.illegalLengthHigh0600 0x0600 9, 0x0600), (.illegalLengthHigh0600 0x07FF 9, 0x07FF),
    (.illegalLengthHigh0800 0x0800 9, 0x0800), (.illegalLengthHigh0800 0x0FFF 9, 0x0FFF),
    (.illegalLengthHigh1000 0x1000 9, 0x1000), (.illegalLengthHigh1000 0x1FFF 9, 0x1FFF),
    (.illegalLengthHigh2000 0x2000 9, 0x2000), (.illegalLengthHigh2000 0x3FFF 9, 0x3FFF),
    (.illegalLengthHigh4000 0x4000 9, 0x4000), (.illegalLengthHigh4000 0x7FFF 9, 0x7FFF),
    (.illegalLengthHigh8000 0x8000 9, 0x8000), (.illegalLengthHigh8000 0xFFFF 9, 0xFFFF)]

theorem test_illegalLengthHigh_kinds : highKinds.all (fun k =>
    shown (exec k.1 (dec (headerBytes k.2 9) false false 4 0 0)) ==
      some ⟨some (.protocolViolation k.2 9), headerBytes k.2 9, false, true, 4, 0, 0⟩) = true := by decide

/-- R161, R119. -/
theorem test_chat : shown (exec (.chat 7) (dec [0, 7, 0, 1, 0x68, 0x65, 0x6C, 0x6C, 0x6F] false false 9 0 0)) =
    some ⟨some (.frame ⟨7, 1, [0x68, 0x65, 0x6C, 0x6C, 0x6F]⟩), [], false, false, 9, 9, 1⟩ := by decide

/-- R162. -/
theorem test_joinRoom : shown (exec (.joinRoom 2) (dec [0, 2, 0, 2] false false 4 0 0)) =
    some ⟨some (.frame ⟨2, 2, []⟩), [], false, false, 4, 4, 1⟩ := by decide

/-- X22: a close does not gate extraction (R163). -/
theorem test_leaveRoom : shown (exec (.leaveRoom 2) (dec [0, 2, 0, 3] true false 4 0 0)) =
    some ⟨some (.frame ⟨2, 3, []⟩), [], true, false, 4, 4, 1⟩ := by decide

/-- X11. -/
theorem test_opaqueFrame : shown (exec (.opaqueFrame 3 0x1234) (dec [0, 3, 0x12, 0x34, 0xAA] false false 5 0 0)) =
    some ⟨some (.frame ⟨3, 0x1234, [0xAA]⟩), [], false, false, 5, 5, 1⟩ := by decide

/-- X10. -/
theorem test_opaqueFrame_partial : shown (exec (.opaqueFrame 3 0x1234) (dec [0, 3, 0x12, 0x34] false false 4 0 0)) =
    some ⟨some .stall, [0, 3, 0x12, 0x34], false, false, 4, 0, 0⟩ := by decide

/-- S1, with a FEED_BYTE offered at the same instant. -/
theorem test_reset_wins : shown (step { dec [0, 1, 0, 1, 0, 2] true true 13 7 1 with inputs := [.rst (some 0x0AA)] }) =
    some ⟨none, [], false, false, 0, 0, 0⟩ := by decide

/-- E3: an absent payload. -/
theorem test_step_absent_payload :
    sent (step { State.reset with inputs := [.encRequest 1 none] }) = some [[0, 2, 0, 1]] := by decide

/-- U4. -/
theorem test_step_two_issuers :
    refusal (step { State.reset with inputs := [.clash 0x200 0x000] }) = some .twoIssuers := by decide

/-- R8, R140. -/
theorem test_step_payload_not_presentable :
    refusal (step { State.reset with cfg := ⟨1024, .inf, .finite 1⟩, inputs := [.encRequest 1 (some [0, 0])] }) =
      some .payloadNotPresentable := by decide

/-- A stored header word is what the next step runs: X19 and X4. -/
theorem test_withFetchWord_frame :
    shown (step (State.reset.withFetchWord 32 0x00020000)) =
      some ⟨some (.frame ⟨2, 0, []⟩), [], false, false, 4, 4, 1⟩ ∧
    shown (step (State.reset.withFetchWord 32 0x00000001)) =
      some ⟨some (.protocolViolation 0 1), [0, 0, 0, 1], false, true, 4, 0, 0⟩ := by decide

theorem test_withFetchWord_cmd :
    shown (step (State.reset.withFetchWord 16 0x0FF)) = some ⟨some .ok, [0xFF], false, false, 1, 0, 0⟩ := by decide

/-- S5. -/
theorem test_status : statusReg (dec [] true false 0 0 0) = 0b01 ∧ statusReg (dec [] false true 0 0 0) = 0b10 ∧
    faultOut (dec [] false true 0 0 0) = true ∧ faultOut (dec [] false false 0 0 0) = false := by decide

/-! ### Decoding a byte sequence, and the end of a run -/

/-- R106, R104: `decode` of no bytes feeds an empty chunk. -/
theorem test_decode_of_nothing_closes : (decodeBytes [] State.reset).state.closed = true ∧
    (decodeBytes [] State.reset).frames = [] ∧ (decodeBytes [] State.reset).ending = .stall := by decide

/-- R106: a Frame yielded during a hold, in a buffer of four bytes, is among the Frames of `decode`. -/
theorem test_decode_through_a_hold :
    (decodeBytes [0, 2, 0, 1, 0, 2, 0, 3] { State.reset with cfg := ⟨0, .finite 4, .inf⟩ }).frames =
      [⟨2, 1, []⟩, ⟨2, 3, []⟩] := by decide

/-- G2: a run that ended well, the close first. -/
theorem test_run_ended_well :
    Run.result ⟨.document, [.feedEof 0, .extract 0]⟩ = .endedWell [] [] := by decide

/-- P5, cut to two bytes: ended well after the drain, with a leftover; without the drain the run has only stopped. -/
theorem test_run_needs_a_last_drain :
    Run.result ⟨.document, [.feedByte 0, .feedByte 7, .extract 0, .feedEof 0]⟩ = .endedWell [] [0, 7] ∧
    Run.result ⟨.document, [.feedByte 0, .extract 0, .feedByte 7, .feedEof 0]⟩ = .stopped [] := by decide

/-- G1: both bits set, ended badly. -/
theorem test_run_ended_badly :
    Run.result ⟨.document, [.feedByte 0, .feedByte 1, .feedByte 0, .feedByte 1, .extract 0, .feedEof 0]⟩ =
      .endedBadly [] 1 1 := by decide

/-- R222: a run is over when nothing of DEC's comes before the next RESET. -/
theorem test_run_over :
    runOver { State.reset with inputs := [.encRequest 1 none, .rst none, .cmd 0x200] } = true ∧
    runOver { State.reset with inputs := [.encRequest 1 none, .cmd 0x200] } = false := by decide

/-! ### Witnesses: the hypotheses of the statements can be met -/

/-- The smallest parameters: no payload, a buffer of one frame, requests of at most one byte. -/
def tiny : Config := ⟨0, .finite 4, .finite 1⟩

/-- A DEC of the smallest parameters that holds `rb` and is offered `inputs`. -/
def small (rb : List Byte) (inputs : List HostEvent) : State :=
  { State.reset with cfg := tiny, rb := rb, fed := rb.length, inStream := rb, inputs := inputs }

/-- A state in mid-run: one LEAVE_ROOM frame delivered, a CHAT frame waiting, EXTRACT offered. -/
def running : State :=
  { small [0, 2, 0, 1] [.cmd 0x200] with
    fed := 8, consumed := 4, emitted := 1, inStream := [0, 2, 0, 3, 0, 2, 0, 1], out := [⟨2, 3, []⟩] }

/-- A state in violation with a full buffer, the close recorded as well. -/
def violated : State :=
  { small [0, 1, 0, 1] [.cmd 0x200] with closed := true, viol := true, rsp := some (.protocolViolation 1 1) }

theorem running_inv : StateInv running where
  cfgValid := by decide
  withinCap := by decide
  stream := by decide
  framesWf := by decide
  fedCount := by decide
  consumedCount := by decide
  emittedCount := by decide
  violHead := nofun
  stallRest := nofun

theorem violated_inv : StateInv violated where
  cfgValid := by decide
  withinCap := by decide
  stream := by decide
  framesWf := by decide
  fedCount := by decide
  consumedCount := by decide
  emittedCount := by decide
  violHead := fun _ => ⟨by decide, by decide⟩
  stallRest := nofun

theorem witness_DecodeOfEncodeIsTheInstruction : (Instr.chat 2).wellFormed .document = true ∧
    (Instr.opaqueFrame 1026 0xFFFF).wellFormed .document = true ∧
    (Instr.illegalLengthHigh8000 0xFFFF 1).wellFormed .document = true ∧
    (Instr.encode 7 [0]).wellFormed tiny = true := by decide

theorem witness_EncodeOfDecodedIsTheEncoding :
    4 ≤ ([0, 2, 0, 1] : List Byte).length ∧ ([0, 2, 0] : List Byte).length < 4 := by decide

theorem witness_TableRowsPartitionTheHeaders :
    (2 ≤ (wordLength 0x00020001).toNat ∧ (wordLength 0x00020001).toNat ≤ 1026) ∧
    (2 ≤ (wordLength 0x04020004).toNat ∧ (wordLength 0x04020004).toNat ≤ 1026) := by decide

theorem witness_FeedByteAppendsOrIsHeld : (0x0FF : CmdWord).toNat = (0xFF : Byte).toNat ∧
    (∀ n, (small [0, 2, 0] []).cfg.rbCap = .finite n → (small [0, 2, 0] []).rb.length < n) ∧
    (∀ n, State.reset.cfg.rbCap = .finite n → State.reset.rb.length < n) ∧
    (small [0, 2, 0, 1] []).cfg.rbCap = .finite (small [0, 2, 0, 1] []).rb.length := by
  refine ⟨by decide, ?_, nofun, by decide⟩
  intro n h
  cases h
  decide

theorem witness_FeedEofRaisesStreamClosed : (0x1FF : CmdWord).toNat = 256 + (0xFF : Byte).toNat := by decide

theorem witness_ExtractFollowsItsFourTests_word_and_short :
    (0x2FF : CmdWord).toNat = 512 + (0xFF : Byte).toNat ∧ (dec [0, 0, 0] false false 3 0 0).rb.length < 4 := by decide

/-- The lengths 1 and 1027, the illegal ones next to the legal range. -/
theorem witness_ExtractFollowsItsFourTests_illegal :
    (∃ rest, (dec [0x00, 0x01, 0x00, 0x01] false false 4 0 0).rb = 0x00 :: 0x01 :: 0x00 :: 0x01 :: rest) ∧
    (1 : Half).toNat = (0x00 : Byte).toNat * 256 + (0x01 : Byte).toNat ∧ (1 : Half).toNat < 2 ∧
    (∃ rest, (dec [0x04, 0x03, 0x00, 0x01] false false 4 0 0).rb = 0x04 :: 0x03 :: 0x00 :: 0x01 :: rest) ∧
    (1027 : Half).toNat = (0x04 : Byte).toNat * 256 + (0x03 : Byte).toNat ∧
    State.reset.cfg.maxPayload + 2 < (1027 : Half).toNat :=
  ⟨⟨[], rfl⟩, by decide, by decide, ⟨[], rfl⟩, by decide, by decide⟩

/-- The greatest legal `length`, not whole; the least, just whole. -/
theorem witness_ExtractFollowsItsFourTests_legal :
    (∃ rest, (dec [0x04, 0x02, 0x00, 0x01] false false 4 0 0).rb = 0x04 :: 0x02 :: 0x00 :: 0x01 :: rest) ∧
    (1026 : Half).toNat = (0x04 : Byte).toNat * 256 + (0x02 : Byte).toNat ∧
    (1026 : Half).toNat ≤ State.reset.cfg.maxPayload + 2 ∧ 4 < 2 + (1026 : Half).toNat ∧
    (∃ rest, (dec [0x00, 0x02, 0x00, 0x01] false false 4 0 0).rb = 0x00 :: 0x02 :: 0x00 :: 0x01 :: rest) ∧
    2 ≤ (2 : Half).toNat ∧ 2 + (2 : Half).toNat ≤ (dec [0x00, 0x02, 0x00, 0x01] false false 4 0 0).rb.length :=
  ⟨⟨[], rfl⟩, by decide, by decide, by decide, ⟨[], rfl⟩, by decide, by decide⟩

theorem witness_ReservedCommandIsRefused : (0x300 : CmdWord).toNat / 256 = 3 ∧ (0x3FF : CmdWord).toNat / 256 = 3 := by
  decide

theorem witness_EncodeReturnsOneFrame : State.reset.cfg.maxPayload + 2 ≤ 65535 := by decide

/-- Each kind at the least `length`, whole, with its header at the head. -/
theorem witness_LegalFrameKindsDeliver_whole :
    State.reset.cfg.maxPayload = 1024 ∧ 2 ≤ (2 : Half).toNat ∧ (2 : Half).toNat ≤ 1026 ∧
    2 + (2 : Half).toNat ≤ (dec [0, 2, 0, 4] false false 4 0 0).rb.length ∧
    ((4 : Half) ≠ 1 ∧ (4 : Half) ≠ 2 ∧ (4 : Half) ≠ 3) ∧
    (dec [0, 2, 0, 1] false false 4 0 0).rb.take 4 = headerBytes 2 1 ∧
    (dec [0, 2, 0, 2] false false 4 0 0).rb.take 4 = headerBytes 2 2 ∧
    (dec [0, 2, 0, 3] false false 4 0 0).rb.take 4 = headerBytes 2 3 ∧
    (dec [0, 2, 0, 4] false false 4 0 0).rb.take 4 = headerBytes 2 4 := by decide

/-- The greatest `length`, not whole. -/
theorem witness_LegalFrameKindsDeliver_partial :
    (1026 : Half).toNat ≤ 1026 ∧ (dec [4, 2, 0, 0] false false 4 0 0).rb.length < 2 + (1026 : Half).toNat ∧
    (0 : Half) ≠ 1 ∧ (0 : Half) ≠ 2 ∧ (0 : Half) ≠ 3 := by decide

theorem witness_IllegalFrameKindsViolate :
    (dec [4, 3, 0, 1] false false 4 0 0).cfg.maxPayload = 1024 ∧
    (Instr.illegalLengthHigh0403 1027 1).wellFormed (dec [4, 3, 0, 1] false false 4 0 0).cfg = true ∧
    (Instr.illegalLengthHigh0403 1027 1).isIllegalHeader = true ∧
    (Instr.illegalLengthHigh0403 1027 1).header = some (1027, 1) ∧
    4 ≤ (dec [4, 3, 0, 1] false false 4 0 0).rb.length ∧
    (dec [4, 3, 0, 1] false false 4 0 0).rb.take 4 = headerBytes 1027 1 ∧
    (Instr.illegalLengthLow 1 1).wellFormed (dec [0, 1, 0, 1] false false 4 0 0).cfg = true := by decide

/-- A fault of each kind, and one met by a frame kind. -/
theorem witness_FaultDoesThreeThings :
    (∃ t, exec (.feedEof 0) State.reset = .next t ∧ t.rsp = some .streamClosed ∧
      Response.fatal .streamClosed = some .streamClosed) ∧
    (∃ t, exec (.extract 0) (small [0, 1, 0, 1] []) = .next t ∧ t.rsp = some (.protocolViolation 1 1) ∧
      (Response.protocolViolation 1 1).fatal = some .protocolViolation) ∧
    ∃ t, (Instr.illegalLengthLow 1 1).header.isSome = true ∧
      exec (.illegalLengthLow 1 1) (small [0, 1, 0, 1] []) = .next t ∧ t.rsp = some (.protocolViolation 1 1) :=
  ⟨⟨_, rfl, by decide, by decide⟩, ⟨_, rfl, by decide, by decide⟩, ⟨_, by decide, rfl, by decide⟩⟩

theorem witness_IgnoredDataMakesNoDifference : (0x0FF : CmdWord).toNat < 256 := by decide

theorem witness_PayloadIsCarriedVerbatim :
    (∃ t, exec (.extract 0) (dec [0, 3, 0, 9, 0xAA] false false 5 0 0) = .next t ∧
      t.rsp = some (.frame ⟨3, 9, [0xAA]⟩) ∧ 0 < (3 : Half).toNat - 2) ∧
    1 < min ([0xAA, 0xBB] : List Byte).length 2 := ⟨⟨_, rfl, by decide, by decide⟩, by decide⟩

theorem witness_ExtractWithoutAFrameIsIdempotent :
    ∃ t, exec (.extract 0) (small [0, 1, 0, 1] []) = .next t ∧ ∀ f, t.rsp ≠ some (.frame f) := by
  refine ⟨_, rfl, fun f => ?_⟩
  rw [show (drainPass _ _ (small [0, 1, 0, 1] [])).rsp = some (.protocolViolation 1 1) by decide]
  nofun

theorem witness_StepRunsTheDecodedOperation :
    ((small [] [.cmd 0x0AA, .cmd 0x200]).inputs = .cmd 0x0AA :: [.cmd 0x200] ∧
      decode (.cmd 0x0AA) = .instr (.feedByte 0xAA)) ∧
    ((small [] [.encRequest 1 (some [0])]).inputs = .encRequest 1 (some [0]) :: [] ∧
      (small [] [.encRequest 1 (some [0])]).cfg.encInMax.admits ([0] : List Byte).length = true) ∧
    (small [] [.encRequest 1 none]).inputs = .encRequest 1 none :: [] := by decide

theorem witness_StepRunsTheFrameKindAtTheHead :
    running.inputs = .cmd 0x200 :: [] ∧ (0x200 : CmdWord).toNat / 256 = 2 ∧
    decode (.stream running.rb) = .instr (.chat 2) ∧
    decode (.stream violated.rb) = .instr (.illegalLengthLow 1 1) := by decide

theorem witness_ResetWinsAndClearsTheDecoder :
    (small [0, 1, 0, 1] [.rst (some 0x0AA)]).inputs = .rst (some 0x0AA) :: [] := by decide

theorem witness_ResetStateHasTheResetValues :
    ∃ t s offered rest, s.inputs = .rst offered :: rest ∧ step s = .next t :=
  ⟨_, small [0, 1, 0, 1] [.rst none], none, [], rfl, rfl⟩

theorem witness_StepStopsOnlyOnMisuseOfThePorts :
    State.reset.inputs = [] ∧ (small [] [.clash 0x200 0x000]).inputs = .clash 0x200 0x000 :: [] ∧
    ((small [] [.encRequest 1 (some [0, 0])]).inputs = .encRequest 1 (some [0, 0]) :: [] ∧
      (small [] [.encRequest 1 (some [0, 0])]).cfg.encInMax.admits ([0, 0] : List Byte).length = false) ∧
    ((∀ v w rest, running.inputs ≠ .clash v w :: rest) ∧
      ∀ type payload rest, running.inputs = .encRequest type payload :: rest →
        running.cfg.encInMax.admits (payload.getD []).length = true) :=
  ⟨rfl, rfl, ⟨rfl, by decide⟩, nofun, nofun⟩

/-- Held, and answered: a FEED_BYTE with room and one command of every other operation with a full RB. -/
theorem witness_CommandIsAnsweredExactlyWhenReady :
    (small [0, 2, 0, 1] []).cfg.rbCap.admits (small [0, 2, 0, 1] []).rb.length = true ∧
    cmdReady (small [0, 2, 0, 1] []) 0x000 = false ∧ cmdReady (small [0, 2, 0] []) 0x0FF = true ∧
    cmdReady (small [0, 2, 0, 1] []) 0x100 = true ∧ cmdReady (small [0, 2, 0, 1] []) 0x200 = true ∧
    cmdReady (small [0, 2, 0, 1] []) 0x300 = true ∧ running.inputs = .cmd 0x200 :: [] := by decide

theorem witness_StoredTableWordIsRunNext : decodeTableWord 32 0x00020001 = some (.chat 2) ∧
    decodeTableWord 10 0x0FF = some (.feedByte 0xFF) ∧ decodeTableWord 16 0x200 = some (.extract 0) ∧
    decodeTableWord 0 0 = some (.encode 0 []) := by decide

theorem witness_InvariantHoldsAfterReset : violated.cfg.valid = true ∧ State.reset.cfg.valid = true := by decide

theorem witness_EveryStepKeepsTheInvariant :
    (StateInv running ∧ ∃ t, step running = .next t) ∧ StateInv violated ∧ ∃ t, step violated = .next t :=
  ⟨⟨running_inv, _, rfl⟩, violated_inv, _, rfl⟩

theorem witness_FramesTileTheStreamExactlyOnce : StateInv running ∧ running.out[0]? = some ⟨2, 3, []⟩ :=
  ⟨running_inv, rfl⟩

theorem witness_CountersLocateTheBufferInTheStream :
    StateInv running ∧ running.consumed ≤ 4 ∧ 4 < running.fed ∧ running.consumed ≤ 7 ∧ 7 < running.fed :=
  ⟨running_inv, by decide, by decide, by decide, by decide⟩

theorem witness_BufferChangesOnlyAtItsEnds : ∃ t, step running = .next t := ⟨_, rfl⟩

/-- Both bits set before, and each of them set by the step. -/
theorem witness_StatusBitsAreStickyUntilReset :
    (∃ t, step violated = .next t ∧ (∀ offered rest, violated.inputs ≠ .rst offered :: rest) ∧
      violated.closed = true ∧ violated.viol = true) ∧
    (∃ t, step (small [] [.cmd 0x100]) = .next t ∧ t.closed = true) ∧
    ∃ t, step (small [0, 1, 0, 1] [.cmd 0x200]) = .next t ∧ t.viol = true :=
  ⟨⟨_, rfl, nofun, rfl, rfl⟩, ⟨_, rfl, by decide⟩, ⟨_, rfl, by decide⟩⟩

theorem witness_DecoderAndEncoderCommute :
    (∃ t u, (∀ ty p, Instr.extract 0 ≠ .encode ty p) ∧ exec (.extract 0) running = .next t ∧
      exec (.encode 1 [0]) t = .next u) ∧
    ∃ t t', running.cfg.maxPayload = violated.cfg.maxPayload ∧ exec (.encode 1 [0]) running = .next t ∧
      exec (.encode 1 [0]) violated = .next t' :=
  ⟨⟨_, _, nofun, rfl, rfl⟩, ⟨_, _, rfl, rfl, rfl⟩⟩

theorem witness_ViolationStaysUntilReset : Violating violated ∧
    (∀ i ∈ [Instr.feedByte 0, .extract 0, .encode 1 []], i.header = none) ∧
    violated.cfg.rbCap = .finite violated.rb.length :=
  ⟨⟨by decide, by decide⟩, by decide, by decide⟩

theorem witness_FullBufferNeverStalls : running.cfg.valid = true ∧ running.cfg.rbCap = .finite running.rb.length ∧
    violated.cfg.valid = true ∧ violated.cfg.rbCap = .finite violated.rb.length := by decide

theorem witness_StatusAndFaultOutputs : Response.fatal .streamClosed = some .streamClosed ∧
    Response.fatal .stall = none := by decide

/-- In a state, and at the end of a run. -/
theorem witness_ViolationIsPrecise :
    (∃ t, exec (.extract 0) (small [0, 1, 0, 1] []) = .next t ∧ t.rsp = some (.protocolViolation 1 1)) ∧
    ∃ t, exec (.extract 0) (Run.mk tiny [.feedByte 0, .feedByte 1, .feedByte 0, .feedByte 1]).final = .next t ∧
      t.rsp = some (.protocolViolation 1 1) := ⟨⟨_, rfl, by decide⟩, ⟨_, rfl, by decide⟩⟩

/-- A run that ended well, and one that stopped before its last drain. -/
theorem witness_RunEndsWellAfterCloseAndDrain :
    (∀ i ∈ [Instr.feedByte 0, .extract 0, .feedEof 0], i.header = none) ∧
    (Run.mk tiny [.feedByte 0, .extract 0, .feedEof 0]).endedWell = true ∧
    (∀ i ∈ [Instr.feedByte 0, .feedEof 0], i.header = none) ∧
    (Run.mk tiny [.feedByte 0, .feedEof 0]).endedWell = false ∧
    (Run.mk tiny [.feedByte 0, .feedEof 0]).endedBadly = false := by decide

/-- A run up to the next RESET, and one up to the end of the events. -/
theorem witness_StepsPerformTheRun :
    (small [0] [.rst none, .cmd 0x000, .encRequest 1 none, .rst none]).inputs =
      .rst none :: ([.cmd 0x000, .encRequest 1 none] ++ [.rst none]) ∧
    (small [0] [.rst none, .cmd 0x000]).inputs = .rst none :: ([.cmd 0x000] ++ []) ∧
    (∀ e ∈ ([.cmd 0x000, .encRequest 1 none] : List HostEvent), (∃ w, e = .cmd w) ∨
      ∃ type payload, e = .encRequest type payload ∧
        (small [0] []).cfg.encInMax.admits (payload.getD []).length = true) := by
  refine ⟨rfl, rfl, fun e h => ?_⟩
  rcases List.mem_cons.1 h with rfl | h
  · exact .inl ⟨_, rfl⟩
  · exact .inr ⟨1, none, List.mem_singleton.1 h, by decide⟩

theorem witness_RunOverIsFinal : runOver (small [] [.encRequest 1 none]) = true ∧
    (∀ offered rest, (small [] [.encRequest 1 none]).inputs ≠ .rst offered :: rest) ∧
    ∃ t, step (small [] [.encRequest 1 none]) = .next t := ⟨by decide, nofun, _, rfl⟩

theorem witness_DecodeIsResetFeedDrain :
    (small [9] []).cfg.rbCap.admits ([0, 2, 0, 1] : List Byte).length = true ∧
    State.reset.cfg.rbCap.admits ([] : List Byte).length = true := by decide

theorem witness_DecodeOfEncodedFrameIsTheFrame :
    (small [0] []).cfg.valid = true ∧ ([] : List Byte).length ≤ (small [0] []).cfg.maxPayload ∧
    State.reset.cfg.valid = true ∧ ([0xAA] : List Byte).length ≤ State.reset.cfg.maxPayload := by decide

theorem witness_EncodedMessagesArriveInOrder : (small [0] []).cfg.valid = true ∧ State.reset.cfg.valid = true ∧
    ([(1, [0xAA])] : List (Half × List Byte)) ≠ [] := by decide

theorem witness_OversizedPayloadIsCut : (small [0] []).cfg.valid = true ∧
    (small [0] []).cfg.maxPayload ≤ ([] : List Byte).length ∧
    (small [0] []).cfg.maxPayload ≤ ([0xAA] : List Byte).length := by decide

/-- Through the smallest buffer, an EXTRACT in the middle or none. -/
theorem witness_FragmentationDoesNotMatter :
    fedBytes [.feed 0, .feed 2, .extract, .feed 0, .feed 1] = fedBytes [.feed 0, .feed 2, .feed 0, .feed 1] ∧
    allAccepted [.feed 0, .feed 2, .extract, .feed 0, .feed 1] (small [] []) = true ∧
    allAccepted [.feed 0, .feed 2, .feed 0, .feed 1] (small [] []) = true := by decide

theorem witness_PartialFrameStallsUntilWhole :
    AtRest (small [0, 0, 0] []) ∧ AtRest (dec [0, 3, 0, 1] false false 4 0 0) ∧
    4 ≤ (dec [0, 3, 0, 1] false false 4 0 0).rb.length ∧ hdrLegal (dec [0, 3, 0, 1] false false 4 0 0) = true ∧
    hdrTotal (dec [0, 3, 0, 1] false false 4 0 0) ≤
      (dec [0, 3, 0, 1] false false 4 0 0).rb.length + ([0xAA] : List Byte).length :=
  ⟨.inl (by decide), .inr ⟨by decide, by decide⟩, by decide, by decide, by decide⟩

/-- The three illegal values and the two legal ones beside them. -/
theorem witness_IllegalHeaderFailsEveryDrain :
    ((small [0, 0, 0, 9] []).rb = headerBytes 0 9 ++ [] ∧ (0 : Half).toNat = 0) ∧
    ((small [0, 1, 0, 9] []).rb = headerBytes 1 9 ++ [] ∧ (1 : Half).toNat = 1) ∧
    ((small [0, 3, 0, 9] []).rb = headerBytes 3 9 ++ [] ∧
      (3 : Half).toNat = (small [0, 3, 0, 9] []).cfg.maxPayload + 3) ∧
    ((small [0, 2, 0, 9] []).rb = headerBytes 2 9 ++ [] ∧ (2 : Half).toNat = 2 ∧
      (2 : Half).toNat = (small [0, 2, 0, 9] []).cfg.maxPayload + 2) := by decide

theorem witness_ThreeFramesFromOneFeed : State.reset.cfg.rbCap.admits 12 = true := by decide

theorem witness_EmptyChunkSignalsTheClose : ([2, 0, 1] : List Byte) ≠ [] ∧
    (small [0] []).cfg.rbCap.admits ((small [0] []).rb.length + ([2, 0, 1] : List Byte).length) = true := by decide

theorem witness_DrainEndsAndLeavesAResidue :
    running.cfg.valid = true ∧ (drain running).ending = .stall := by decide

theorem witness_FramesAheadOfAViolationAreDelivered :
    (∀ f ∈ [(⟨2, 3, []⟩ : Frame)], f.wf tiny = true) ∧ legalLength tiny 1 = false ∧
    (small [0, 2, 0, 3, 0, 1, 0, 9] []).cfg = tiny ∧
    (small [0, 2, 0, 3, 0, 1, 0, 9] []).rb = wireOf [⟨2, 3, []⟩] ++ headerBytes 1 9 ++ [] := by decide

theorem witness_EncoderOutputIsAlwaysAValidFrame : tiny.valid = true ∧ Config.document.valid = true := by decide

/-- A sender whose limit is one byte more, and one whose limit is the same. -/
theorem witness_LargerSenderLimitViolates : (small [] []).cfg.valid = true ∧
    (small [] []).cfg.maxPayload < min ([0xAA] : List Byte).length 1 ∧
    min ([0xAA] : List Byte).length 0 ≤ (small [] []).cfg.maxPayload := by decide

end Sys2Proof.Tests
end

section
/-! PROOFS. Extracting, draining and feeding: what one EXTRACT does to a whole frame, to an illegal header and to a
buffer at rest, how a drain begins on each, and what the inbound flow leaves (40_decoder_ops.md R103 to R109). -/

namespace Sys2Proof.Machine

/-! ### The header at the head of RB -/

theorem Frame.wire_ne_nil (f : Frame) : f.wire ≠ [] := by
  simp [Frame.wire, headerBytes]

theorem hdrLength_of_rb {s : State} {length type : Half} {rest : List Byte}
    (h : s.rb = headerBytes length type ++ rest) : hdrLength s = length := by
  rw [hdrLength, h, be16_headerBytes_length]

theorem hdrType_of_rb {s : State} {length type : Half} {rest : List Byte}
    (h : s.rb = headerBytes length type ++ rest) : hdrType s = type := by
  rw [hdrType, h, be16_headerBytes_type]

theorem violating_of_rb {s : State} {length type : Half} {rest : List Byte}
    (h : s.rb = headerBytes length type ++ rest) (hl : legalLength s.cfg length = false) : Violating s :=
  ⟨by simp [h], by rw [hdrLegal, hdrLength_of_rb h]; exact hl⟩

/-! ### One operation of the host -/

@[simp] theorem perform_feedByte (b : Byte) (s : State) : perform (.feedByte b) s = feedOne b s := rfl

theorem perform_extract (d : Byte) (s : State) :
    perform (.extract d) s = drainPass (hdrLength s) (hdrType s) s := by
  rw [perform, exec_extract]

theorem perform_extract_of_atRest (d : Byte) {s : State} (h : AtRest s) :
    perform (.extract d) s = respond .stall s := by
  rw [perform_extract]
  by_cases hs : s.rb.length < 4
  · exact drainPass_of_short _ _ _ hs
  · obtain ⟨hl, hp⟩ := h.resolve_left hs
    exact drainPass_of_partial _ _ _ (by omega) hl hp

theorem perform_extract_of_violating (d : Byte) {s : State} (h : Violating s) :
    perform (.extract d) s = raise (.protocolViolation (hdrLength s) (hdrType s)) s := by
  rw [perform_extract]
  exact drainPass_of_illegal _ _ _ h.1 h.2

/-- EXTRACT delivers the well-formed Frame whose bytes stand at the head of RB. -/
theorem perform_extract_of_wire (d : Byte) {s : State} {f : Frame} {rest : List Byte} (hf : f.wf s.cfg = true)
    (hrb : s.rb = f.wire ++ rest) :
    perform (.extract d) s = respond (.frame f) (emit f (consume f.wire.length s)) := by
  obtain ⟨length, type, payload⟩ := f
  obtain ⟨hlen, hmax⟩ := (Frame.wf_iff _ _).1 hf
  simp only at hlen hmax
  have hhead : s.rb = headerBytes length type ++ (payload ++ rest) := by
    rw [hrb, Frame.wire, List.append_assoc]
  have htotal : frameTotal length = 4 + payload.length := by rw [frameTotal_eq]; omega
  have hpayload : memRead 4 payload.length s = payload := by
    rw [memRead, hhead, List.drop_left' (headerBytes_length length type), List.take_left' rfl]
  rw [perform_extract, hdrLength_of_rb hhead, hdrType_of_rb hhead,
    drainPass_of_whole _ _ _ ((legalLength_iff _ _).2 (by omega)) (by rw [htotal, hrb]; simp), deliver]
  simp only [htotal, headerSize_eq, Nat.add_sub_cancel_left, hpayload, Frame.wire_length]

/-! ### How a drain begins -/

theorem drainUpTo_succ_of_atRest (n : Nat) {s : State} (h : AtRest s) :
    drainUpTo (n + 1) s = ⟨[], .stall, respond .stall s⟩ := by
  rw [drainUpTo, perform_extract_of_atRest 0 h]
  rfl

theorem drainUpTo_succ_of_violating (n : Nat) {s : State} (h : Violating s) :
    drainUpTo (n + 1) s = ⟨[], .violation (hdrLength s) (hdrType s),
      raise (.protocolViolation (hdrLength s) (hdrType s)) s⟩ := by
  rw [drainUpTo, perform_extract_of_violating 0 h]
  rfl

theorem drainUpTo_succ_of_wire (n : Nat) {s : State} {f : Frame} {rest : List Byte} (hf : f.wf s.cfg = true)
    (hrb : s.rb = f.wire ++ rest) :
    drainUpTo (n + 1) s =
      let tail := drainUpTo n (respond (.frame f) (emit f (consume f.wire.length s)))
      ⟨f :: tail.frames, tail.ending, tail.state⟩ := by
  rw [drainUpTo, perform_extract_of_wire 0 hf hrb]
  rfl

theorem drain_of_violating {s : State} (h : Violating s) :
    drain s = ⟨[], .violation (hdrLength s) (hdrType s),
      raise (.protocolViolation (hdrLength s) (hdrType s)) s⟩ :=
  drainUpTo_succ_of_violating _ h

/-- A drain of one whole frame and nothing behind it delivers that Frame and ends with STALL. -/
theorem drain_of_one_wire {s : State} {f : Frame} (hf : f.wf s.cfg = true) (hrb : s.rb = f.wire) :
    drain s = ⟨[f], .stall, respond .stall (emit f (consume f.wire.length s))⟩ := by
  have hfuel : s.rb.length / headerSize = f.payload.length / 4 + 1 := by
    rw [hrb, Frame.wire_length, headerSize_eq]
    omega
  have hrest : AtRest (respond (.frame f) (emit f (consume f.wire.length s))) := .inl (by simp [hrb])
  rw [drain, hfuel, drainUpTo_succ_of_wire _ hf (by rw [hrb, List.append_nil]), drainUpTo_succ_of_atRest _ hrest]
  rfl

/-! ### Feeding bytes that fit, and feeding behind an illegal header -/

theorem respond_append_append (r r' : Response) (S T : List Byte) (s : State) :
    respond r (append T (respond r' (append S s))) = respond r (append (S ++ T) s) := by
  simp only [respond, append, List.append_assoc, List.length_append, Nat.add_assoc]

/-- Bytes that fit are appended without a hold, and the flow goes on with the bytes behind them. -/
theorem feedFlow_append_of_fits (S T : List Byte) (s : State) (hne : S ≠ [])
    (hfit : s.cfg.rbCap.admits (s.rb.length + S.length) = true) :
    feedFlow (S ++ T) s = feedFlow T (respond .ok (append S s)) := by
  induction S generalizing s with
  | nil => exact absurd rfl hne
  | cons b S ih =>
    have hroom : hasRoom s = true := Bound.admits_of_le (by simp) hfit
    have hhead : feedFlow (b :: S ++ T) s = feedFlow (S ++ T) (respond .ok (append [b] s)) := by
      simp only [List.cons_append, feedFlow, hroom, if_true, perform_feedByte, feedOne]
    rw [hhead]
    by_cases hS : S = []
    · rw [hS, List.nil_append]
    · rw [ih (respond .ok (append [b] s)) hS (Bound.admits_of_le (by simp; omega) hfit), respond_append_append,
        List.singleton_append]

theorem feedFlow_of_fits (S : List Byte) (s : State) (hne : S ≠ [])
    (hfit : s.cfg.rbCap.admits (s.rb.length + S.length) = true) :
    feedFlow S s = (.accepted, respond .ok (append S s)) := by
  have h := feedFlow_append_of_fits S [] s hne hfit
  rwa [List.append_nil, feedFlow] at h

/-- `t` is `s` with bytes behind RB and nothing delivered: what feeding behind an illegal header can lead to. -/
structure Extends (s t : State) : Prop where
  cfg : t.cfg = s.cfg
  out : t.out = s.out
  rb : s.rb <+: t.rb

theorem Extends.refl (s : State) : Extends s s := ⟨rfl, rfl, List.prefix_rfl⟩

theorem Extends.trans {s t u : State} (h : Extends s t) (h' : Extends t u) : Extends s u :=
  ⟨h'.cfg.trans h.cfg, h'.out.trans h.out, h.rb.trans h'.rb⟩

theorem Extends.header {s t : State} (h : Extends s t) (h4 : 4 ≤ s.rb.length) :
    hdrLength t = hdrLength s ∧ hdrType t = hdrType s := by
  obtain ⟨T, hT⟩ := h.rb
  rw [hdrLength, hdrType, ← hT]
  exact ⟨be16_append _ _ _ (by omega), be16_append _ _ _ (by omega)⟩

theorem Extends.violating {s t : State} (h : Extends s t) (hv : Violating s) : Violating t := by
  obtain ⟨h4, hl⟩ := hv
  exact ⟨h4.trans h.rb.length_le, by rw [hdrLegal, h.cfg, (h.header h4).1]; exact hl⟩

theorem feedOne_extends (b : Byte) (s : State) : Extends s (feedOne b s) := by
  cases hr : hasRoom s
  · rw [feedOne_of_full b s hr]
    exact .refl s
  · rw [feedOne_of_room b s hr]
    exact ⟨rfl, rfl, List.prefix_append _ _⟩

theorem perform_extract_extends (d : Byte) {s : State} (h : Violating s) : Extends s (perform (.extract d) s) := by
  rw [perform_extract_of_violating d h]
  exact ⟨rfl, rfl, List.prefix_rfl⟩

/-- Behind an illegal header the flow can only fill the buffer up: no EXTRACT during a hold delivers (R58, R109). -/
theorem feedFlow_extends (S : List Byte) {s : State} (h : Violating s) : Extends s (feedFlow S s).2 := by
  induction S generalizing s with
  | nil => exact .refl s
  | cons b S ih =>
    have hhold : Extends s (if hasRoom s then s else perform (.extract 0) s) := by
      split
      · exact .refl s
      · exact perform_extract_extends 0 h
    rw [feedFlow]
    generalize (if hasRoom s then s else perform (.extract 0) s) = u at hhold ⊢
    have hfed := hhold.trans (feedOne_extends b u)
    split
    · exact hfed.trans (ih (hfed.violating h))
    · exact hhold

end Sys2Proof.Machine
end

section
/-! PROOFS. Encoder and decoder of different `MAX_PAYLOAD` (00_scope.md R9, 70_reset_and_hazards.md R214). -/

namespace Sys2Proof.Machine

/-- The Frame that an encoder built with `MAX_PAYLOAD = sender` makes of a payload. -/
def sentFrame (sender : Nat) (type : Half) (payload : List Byte) : Frame :=
  ⟨BitVec.ofNat 16 (2 + min payload.length sender), type, payload.take sender⟩

theorem sentFrame_wire (sender : Nat) (type : Half) (payload : List Byte) :
    (sentFrame sender type payload).wire = encodeFrame sender type payload := by
  simp only [sentFrame, Frame.wire, encodeFrame, typeBytes_eq, List.length_take, Nat.min_comm]

theorem sentFrame_length_toNat (sender : Nat) (type : Half) (payload : List Byte) (h : sender + 2 ≤ 65535) :
    (sentFrame sender type payload).length.toNat = 2 + min payload.length sender := by
  rw [sentFrame, BitVec.toNat_ofNat]
  omega

theorem sentFrame_wf (c : Config) (sender : Nat) (type : Half) (payload : List Byte) (h : sender + 2 ≤ 65535)
    (hle : min payload.length sender ≤ c.maxPayload) : (sentFrame sender type payload).wf c = true := by
  have hp : (sentFrame sender type payload).payload.length = min payload.length sender := by
    rw [sentFrame, List.length_take, Nat.min_comm]
  exact (Frame.wf_iff _ _).2 ⟨by rw [sentFrame_length_toNat _ _ _ h, hp], hp.trans_le hle⟩

/-- Decoding the bytes of one well-formed Frame delivers it: it fits a valid buffer, so no byte is held. -/
theorem decodeBytes_wire (f : Frame) (s : State) (hc : s.cfg.valid = true) (hf : f.wf s.cfg = true) :
    decodeBytes f.wire s = ⟨[f], .stall,
      respond .stall (emit f (consume f.wire.length (respond .ok (append f.wire (resetDec s)))))⟩ := by
  have hmax := ((Frame.wf_iff _ _).1 hf).2
  have hfit : (resetDec s).cfg.rbCap.admits ((resetDec s).rb.length + f.wire.length) = true :=
    Bound.admits_of_le (by simp; omega) ((Config.valid_iff _).1 hc).2
  rw [decodeBytes, feedChunk_of_ne_nil _ _ f.wire_ne_nil, feedFlow_of_fits _ _ f.wire_ne_nil hfit,
    drain_of_one_wire (s := respond .ok (append f.wire (resetDec s))) hf rfl]
  rfl

/-- Decoding bytes that begin with an illegal header ends with its violation and delivers nothing, whether or not the
buffer takes every byte behind it. -/
theorem decodeBytes_of_illegal (length type : Half) (rest : List Byte) (s : State) (hc : s.cfg.valid = true)
    (hl : legalLength s.cfg length = false) :
    (decodeBytes (headerBytes length type ++ rest) s).state.out = [] ∧
    (decodeBytes (headerBytes length type ++ rest) s).ending = .violation length type := by
  have hheader : headerBytes length type ≠ [] := by simp [headerBytes]
  have hfit : (resetDec s).cfg.rbCap.admits ((resetDec s).rb.length + (headerBytes length type).length) = true :=
    Bound.admits_of_le (by simp) ((Config.valid_iff _).1 hc).2
  have hrb : (respond .ok (append (headerBytes length type) (resetDec s))).rb = headerBytes length type ++ [] := rfl
  have hviol := violating_of_rb hrb hl
  have hext := feedFlow_extends rest hviol
  obtain ⟨hlength, htype⟩ := hext.header hviol.1
  rw [decodeBytes, feedChunk_of_ne_nil _ _ (List.append_ne_nil_of_left_ne_nil hheader rest),
    feedFlow_append_of_fits _ _ _ hheader hfit, drain_of_violating (hext.violating hviol), hlength, htype,
    hdrLength_of_rb hrb, hdrType_of_rb hrb]
  exact ⟨hext.out, rfl⟩

/-- Settles O53: above the limit the sent header is illegal here, else the sent Frame is well formed here. -/
theorem largerSenderLimitViolates : Obligations.LargerSenderLimitViolates := by
  intro s sender type payload hc hsender
  rw [← sentFrame_wire]
  refine ⟨fun hlarge => ?_, fun hle => ?_⟩
  · have hl : legalLength s.cfg (sentFrame sender type payload).length = false := by
      rw [legalLength_false_iff, sentFrame_length_toNat _ _ _ hsender]
      omega
    exact decodeBytes_of_illegal _ _ _ s hc hl
  · rw [decodeBytes_wire _ s hc (sentFrame_wf _ _ _ _ hsender hle)]
    exact ⟨rfl, rfl⟩

end Sys2Proof.Machine
end

section
/-! PROOFS. The decoder as the other sections use it: a command word by its `op` bits, and a frame kind by the header
fields it stands for (30_encoding.md R79 to R82, 42_frame_types.md R160). -/

namespace Sys2Proof

/-! ### Command words (R82) -/

theorem cmdWord_masked_toNat (w : CmdWord) : (w &&& 0x300#10).toNat = w.toNat / 256 * 256 := by
  rw [BitVec.toNat_and]
  exact and_highOnes w.toNat 8 2 w.isLt

/-- The mask `0x300` singles out the `op` bits. -/
theorem cmdWord_selects_iff (w : CmdWord) (op : Nat) (hop : op < 4) :
    w &&& 0x300#10 = BitVec.ofNat 10 (op * 256) ↔ w.toNat / 256 = op := by
  rw [← BitVec.toNat_inj, cmdWord_masked_toNat, BitVec.toNat_ofNat]
  omega

/-- The command of a word by the number in its `op` bits. -/
theorem decodeCmd_eq_byOp (w : CmdWord) :
    decodeCmd w =
      if w.toNat / 256 = 0 then .feedByte (cmdData w)
      else if w.toNat / 256 = 1 then .feedEof (cmdData w)
      else if w.toNat / 256 = 2 then .extract (cmdData w)
      else .reservedCmd (cmdData w) := by
  simp only [← cmdWord_selects_iff w 0 (by decide), ← cmdWord_selects_iff w 1 (by decide),
    ← cmdWord_selects_iff w 2 (by decide)]
  rfl

/-- A command word is one of the four operations of DEC. -/
theorem decodeCmd_cases (w : CmdWord) :
    decodeCmd w = .feedByte (cmdData w) ∨ decodeCmd w = .feedEof (cmdData w) ∨
    decodeCmd w = .extract (cmdData w) ∨ decodeCmd w = .reservedCmd (cmdData w) := by
  rw [decodeCmd]
  split_ifs
  · exact .inl rfl
  · exact .inr (.inl rfl)
  · exact .inr (.inr (.inl rfl))
  · exact .inr (.inr (.inr rfl))

/-! ### Frame kinds -/

/-- The frame kind of a header keeps both header fields. -/
theorem kindByRange_header (length type : Half) : (kindByRange length type).header = some (length, type) := by
  apply kindByRange_elim (fun i => i.header = some (length, type))
  case chat => rintro - rfl; rfl
  case join => rintro - rfl; rfl
  case leave => rintro - rfl; rfl
  all_goals intros; rfl

/-- The instruction at a frame boundary has the header fields read there. -/
theorem header_of_decode_stream {bytes : List Byte} {i : Instr} (h : decode (.stream bytes) = .instr i) :
    i.header = some (be16 bytes 0, be16 bytes 2) := by
  rw [decode] at h
  split_ifs at h
  obtain rfl := Decoded.instr.inj h
  rw [decodeHeader_eq_kindByRange, wordLength_headerWord, wordType_headerWord, kindByRange_header]

namespace Machine

/-- A frame kind is one pass of the drain loop over its own header fields. -/
theorem exec_of_header {i : Instr} {length type : Half} (h : i.header = some (length, type)) (s : State) :
    exec i s = .next (drainPass length type s) := by
  cases i with
  | feedByte | feedEof | extract | reservedCmd | encode => nomatch h
  | _ => cases h; rfl

end Machine

end Sys2Proof
end

section
/-! PROOFS. A step by the event at the head of the inputs: the equations of RESET and of a command, and everything a
step can lead to, with the operation decoded (10_state.md R27, R35; 43_system_ops.md R170). -/

namespace Sys2Proof.Machine

theorem popInput_of_inputs {s : State} {e : HostEvent} {rest : List HostEvent} (h : s.inputs = e :: rest) :
    popInput s = { s with inputs := rest } := by
  rw [popInput, h, List.tail_cons]

theorem step_of_rst {s : State} {offered : Option CmdWord} {rest : List HostEvent}
    (h : s.inputs = .rst offered :: rest) : step s = .next (resetDec (popInput s)) := by
  rw [step, fetch, h]

theorem step_of_cmd {s : State} {w : CmdWord} {rest : List HostEvent} (h : s.inputs = .cmd w :: rest) :
    step s = exec (decodeCmd w) (popInput s) := by
  rw [step, fetch, h]

/-- The states a step can lead to, each with the event that leads there. -/
inductive StepResult (s : State) : State → Prop where
  | idle : s.inputs = [] → StepResult s s
  | reset (offered : Option CmdWord) (rest : List HostEvent) : s.inputs = .rst offered :: rest →
      StepResult s (resetDec (popInput s))
  | feedByte (w : CmdWord) (rest : List HostEvent) (b : Byte) : s.inputs = .cmd w :: rest →
      decodeCmd w = .feedByte b → StepResult s (feedOne b (popInput s))
  | feedEof (w : CmdWord) (rest : List HostEvent) (d : Byte) : s.inputs = .cmd w :: rest →
      decodeCmd w = .feedEof d → StepResult s (raise .streamClosed (popInput s))
  | extract (w : CmdWord) (rest : List HostEvent) (d : Byte) : s.inputs = .cmd w :: rest →
      decodeCmd w = .extract d → StepResult s (drainPass (hdrLength s) (hdrType s) (popInput s))
  | reservedCmd (w : CmdWord) (rest : List HostEvent) (d : Byte) : s.inputs = .cmd w :: rest →
      decodeCmd w = .reservedCmd d → StepResult s (respond .refused (popInput s))
  | encode (type : Half) (payload : Option (List Byte)) (rest : List HostEvent) :
      s.inputs = .encRequest type payload :: rest →
      StepResult s (sendOut (encodeFrame s.cfg.maxPayload type (payloadOperand payload)) (popInput s))

theorem step_result {s t : State} (h : step s = .next t) : StepResult s t := by
  rcases step_cases h with ⟨hin, rfl⟩ | ⟨offered, rest, hin, rfl⟩ | ⟨w, rest, hin, he⟩ |
    ⟨type, payload, rest, hin, -, he⟩
  · exact .idle hin
  · exact .reset offered rest hin
  · rcases decodeCmd_cases w with hd | hd | hd | hd <;> rw [hd] at he
    · exact Host.Outcome.next.inj he ▸ .feedByte w rest _ hin hd
    · exact Host.Outcome.next.inj he ▸ .feedEof w rest _ hin hd
    · rw [exec_extract] at he
      exact Host.Outcome.next.inj he ▸ .extract w rest _ hin hd
    · exact Host.Outcome.next.inj he ▸ .reservedCmd w rest _ hin hd
  · exact Host.Outcome.next.inj he ▸ .encode type payload rest hin

/-- Settles O19: EXTRACT and the frame kind make the same pass, with the fields at the head of RB. -/
theorem stepRunsTheFrameKindAtTheHead : Obligations.StepRunsTheFrameKindAtTheHead := by
  intro s w rest i hin hop hdec
  have hcmd : decodeCmd w = .extract (cmdData w) := by
    rw [decodeCmd_eq_byOp, hop]
    rfl
  rw [step_of_cmd hin, hcmd, exec_extract, exec_of_header (header_of_decode_stream hdec), popInput_of_inputs hin]
  rfl

end Sys2Proof.Machine
end

section
/-! PROOFS. The STATUS bits and what one step does to them and to the Receive Buffer (10_state.md R21, R24, R35;
40_decoder_ops.md R123; 60_exceptions.md R186, R191). -/

namespace Sys2Proof.Machine

/-! ### The reset values (R35) -/

/-- The state at power-on is one that RESET leaves. -/
theorem reset_eq_resetDec : State.reset = resetDec State.reset := rfl

theorem statusReg_resetDec (s : State) : statusReg (resetDec s) = 0 := by
  rw [statusReg, resetDec_closed, resetDec_viol]
  rfl

/-- Settles O21: a RESET step ends in `resetDec`, and `State.reset` is of that form. -/
theorem resetStateHasTheResetValues : Obligations.ResetStateHasTheResetValues := by
  intro t ht
  have hreset : ∃ u, t = resetDec u := by
    rcases ht with rfl | ⟨s, offered, rest, hin, hstep⟩
    · exact ⟨_, reset_eq_resetDec⟩
    · rw [step_of_rst hin] at hstep
      exact ⟨_, (Host.Outcome.next.inj hstep).symm⟩
  obtain ⟨u, rfl⟩ := hreset
  exact ⟨rfl, rfl, rfl, rfl, rfl, rfl, statusReg_resetDec u, rfl⟩

/-! ### The outputs (R24, R86, R186) -/

theorem statusReg_getElem_zero (s : State) : (statusReg s)[0] = s.closed := by
  rw [statusReg]
  cases s.viol <;> cases s.closed <;> rfl

theorem statusReg_getElem_one (s : State) : (statusReg s)[1] = s.viol := by
  rw [statusReg]
  cases s.viol <;> cases s.closed <;> rfl

/-- A response that reports a fault bears the fault's cause code. -/
theorem Response.causeCode_of_fatal {r : Response} {k : FatalCondition} (h : r.fatal = some k) :
    k.causeCode = r.code := by
  cases r with
  | streamClosed | protocolViolation => cases h; rfl
  | ok | frame | stall | refused => nomatch h

theorem Response.fatal_ne_transportError (r : Response) : r.fatal ≠ some .transportError := by
  cases r <;> nofun

theorem Response.code_of_fatal_none {r : Response} (h : r.fatal = none) :
    r.code = 0 ∨ r.code = 4 ∨ r.code = 5 ∨ r.code = 7 := by
  cases r with
  | streamClosed | protocolViolation => nomatch h
  | ok => exact .inl rfl
  | frame => exact .inr (.inl rfl)
  | stall => exact .inr (.inr (.inl rfl))
  | refused => exact .inr (.inr (.inr rfl))

/-- Settles O35: the two bits, their disjunction, and the codes of the faults. -/
theorem statusAndFaultOutputs : Obligations.StatusAndFaultOutputs := fun s =>
  ⟨statusReg_getElem_zero s, statusReg_getElem_one s, Bool.or_eq_true_iff, rfl, rfl, rfl, fun r =>
    ⟨fun _ => r.causeCode_of_fatal, r.fatal_ne_transportError, r.code_of_fatal_none⟩⟩

/-! ### No instruction reads STATUS (R123) -/

/-- `s` with other STATUS bits. -/
def withStatus (c v : Bool) (s : State) : State := { s with closed := c, viol := v }

/-- `t` and `t'` are equal but for the STATUS bits. -/
def SameButStatus (t t' : State) : Prop := t' = { t with closed := t'.closed, viol := t'.viol }

theorem feedOne_sameButStatus (b : Byte) (s : State) (c v : Bool) :
    SameButStatus (feedOne b s) (feedOne b (withStatus c v s)) := by
  cases hr : hasRoom s
  · rw [feedOne_of_full b s hr, feedOne_of_full b (withStatus c v s) hr]
    rfl
  · rw [feedOne_of_room b s hr, feedOne_of_room b (withStatus c v s) hr]
    rfl

theorem drainPass_sameButStatus (length type : Half) (s : State) (c v : Bool) :
    SameButStatus (drainPass length type s) (drainPass length type (withStatus c v s)) := by
  rcases drainPass_cases length type s with ⟨hs, e⟩ | ⟨h4, hl, e⟩ | ⟨h4, hl, hp, e⟩ | ⟨hl, hw, e⟩ <;> rw [e]
  · rw [drainPass_of_short _ _ (withStatus c v s) hs]
    rfl
  · rw [drainPass_of_illegal _ _ (withStatus c v s) h4 hl]
    rfl
  · rw [drainPass_of_partial _ _ (withStatus c v s) h4 hl hp]
    rfl
  · rw [drainPass_of_whole _ _ (withStatus c v s) hl hw]
    rfl

/-- Settles O31: the tests of FEED_BYTE and of a drain pass are on RB and the parameters alone. -/
theorem noInstructionReadsTheStatusBits : Obligations.NoInstructionReadsTheStatusBits := by
  intro i s c v
  cases i with
  | feedByte b => exact ⟨_, _, rfl, rfl, feedOne_sameButStatus b s c v⟩
  | feedEof | reservedCmd | encode => exact ⟨_, _, rfl, rfl, rfl⟩
  | _ => exact ⟨_, _, rfl, rfl, drainPass_sameButStatus _ _ s c v⟩

/-! ### What a step does to STATUS and to RB -/

theorem feedOne_status (b : Byte) (s : State) :
    (feedOne b s).closed = s.closed ∧ (feedOne b s).viol = s.viol := by
  cases hr : hasRoom s
  · rw [feedOne_of_full b s hr]
    exact ⟨rfl, rfl⟩
  · rw [feedOne_of_room b s hr]
    exact ⟨rfl, rfl⟩

/-- A pass sets VIOL at an illegal header and leaves it alone otherwise. -/
theorem drainPass_viol (length type : Half) (s : State) :
    (drainPass length type s).viol = true ↔
      s.viol = true ∨ (4 ≤ s.rb.length ∧ legalLength s.cfg length = false) := by
  rcases drainPass_cases length type s with ⟨hs, e⟩ | ⟨h4, hl, e⟩ | ⟨-, hl, -, e⟩ | ⟨hl, -, e⟩ <;> rw [e]
  · simp [hs]
  · simp [raise, h4, hl]
  · simp [hl]
  · simp [deliver, hl]

/-- A pass leaves RB alone or takes one whole legal frame off its head. -/
theorem drainPass_rb (length type : Half) (s : State) :
    (drainPass length type s).rb = s.rb ∨
    (legalLength s.cfg length = true ∧ frameTotal length ≤ s.rb.length ∧
      (drainPass length type s).rb = s.rb.drop (frameTotal length)) := by
  rcases drainPass_cases length type s with ⟨-, e⟩ | ⟨-, -, e⟩ | ⟨-, -, -, e⟩ | ⟨hl, hw, e⟩ <;> rw [e]
  · exact .inl rfl
  · exact .inl rfl
  · exact .inl rfl
  · exact .inr ⟨hl, hw, rfl⟩

theorem feedOne_rb (b : Byte) (s : State) : (feedOne b s).rb = s.rb ∨ (feedOne b s).rb = s.rb ++ [b] := by
  cases hr : hasRoom s
  · exact .inl (by rw [feedOne_of_full b s hr])
  · exact .inr (by rw [feedOne_of_room b s hr])

/-- Settles O29, by what the step's operation does to RB. -/
theorem bufferChangesOnlyAtItsEnds : Obligations.BufferChangesOnlyAtItsEnds := by
  intro s t hstep
  cases step_result hstep with
  | idle | feedEof | reservedCmd | encode => exact .inl rfl
  | reset offered rest hin => exact .inr (.inr (.inr ⟨offered, rest, hin, rfl⟩))
  | feedByte w rest b hin hd =>
    exact (feedOne_rb b (popInput s)).imp_right fun h => .inl ⟨b, w, rest, hin, hd, h⟩
  | extract w rest d hin hd =>
    exact (drainPass_rb _ _ (popInput s)).imp_right fun ⟨hl, hw, h⟩ => .inr (.inl ⟨w, d, rest, hin, hd, hl, hw, h⟩)

/-- Settles O30, by what the step's operation does to the two bits. -/
theorem statusBitsAreStickyUntilReset : Obligations.StatusBitsAreStickyUntilReset := by
  intro s t hstep hrst
  cases step_result hstep with
  | idle | reservedCmd | encode => exact ⟨id, id, .inl, .inl⟩
  | reset offered rest hin => exact absurd hin (hrst offered rest)
  | feedByte w rest b =>
    obtain ⟨hclosed, hviol⟩ := feedOne_status b (popInput s)
    rw [hclosed, hviol]
    exact ⟨id, id, .inl, .inl⟩
  | feedEof w rest d hin hd => exact ⟨fun _ => rfl, id, fun _ => .inr ⟨w, d, rest, hin, hd⟩, .inl⟩
  | extract w rest d hin hd =>
    obtain ⟨-, hclosed, -⟩ := drainPass_frame (hdrLength s) (hdrType s) (popInput s)
    rw [hclosed, drainPass_viol]
    exact ⟨id, .inl, .inl, .imp_right fun hv => ⟨w, d, rest, hin, hd, hv⟩⟩

end Sys2Proof.Machine
end

section
/-! PROOFS. The invariant of 10_state.md R34: it holds after RESET, every operation and so every step keeps it, and what
it says of the counters (R28). -/

namespace Sys2Proof.Machine

/-! ### The bytes of delivered Frames -/

@[simp] theorem wireOf_nil : wireOf [] = [] := rfl

@[simp] theorem wireOf_cons (f : Frame) (frames : List Frame) : wireOf (f :: frames) = f.wire ++ wireOf frames := rfl

theorem wireOf_concat (frames : List Frame) (f : Frame) : wireOf (frames ++ [f]) = wireOf frames ++ f.wire := by
  simp [wireOf]

/-- A well-formed Frame has from 4 to `MAX_FRAME_BYTES` bytes, so `k` of them have from `4k` to that many times `k`. -/
theorem wireOf_length_bounds {c : Config} {frames : List Frame} (h : ∀ f ∈ frames, f.wf c = true) :
    4 * frames.length ≤ (wireOf frames).length ∧
    (wireOf frames).length ≤ (c.maxPayload + 4) * frames.length := by
  induction frames with
  | nil => exact ⟨le_rfl, le_rfl⟩
  | cons f frames ih =>
    obtain ⟨hlo, hhi⟩ := ih fun g hg => h g (List.mem_cons_of_mem f hg)
    have hf := ((Frame.wf_iff _ _).1 (h f List.mem_cons_self)).2
    rw [wireOf_cons, List.length_append, Frame.wire_length, List.length_cons, Nat.mul_succ, Nat.mul_succ]
    omega

/-! ### RESET establishes the invariant -/

theorem stateInv_resetDec {s : State} (hc : s.cfg.valid = true) : StateInv (resetDec s) where
  cfgValid := hc
  withinCap := Bound.admits_of_le (Nat.zero_le _) ((Config.valid_iff _).1 hc).2
  stream := rfl
  framesWf := nofun
  fedCount := rfl
  consumedCount := rfl
  emittedCount := rfl
  violHead := nofun
  stallRest := nofun

/-- Settles O25: `State.reset` is `resetDec` of itself, and its parameters are valid. -/
theorem invariantHoldsAfterReset : Obligations.InvariantHoldsAfterReset :=
  ⟨reset_eq_resetDec ▸ stateInv_resetDec (by decide), fun _ => stateInv_resetDec⟩

/-! ### Every operation keeps the invariant -/

section
variable {s : State} (h : StateInv s)
include h

theorem StateInv.popInput : StateInv (popInput s) := { h with }

theorem StateInv.sendOut (bytes : List Byte) : StateInv (sendOut bytes s) := { h with }

theorem StateInv.setClosed : StateInv (setClosed s) := { h with }

theorem StateInv.setViol (hv : Violating s) : StateInv (setViol s) := { h with violHead := fun _ => hv }

/-- A response keeps the invariant; a STALL may be given only at rest. -/
theorem StateInv.respond (r : Response) (hr : r = .stall → AtRest s) : StateInv (respond r s) :=
  { h with stallRest := fun hrsp => hr (Option.some.inj hrsp) }

theorem StateInv.feedOne (b : Byte) : StateInv (feedOne b s) := by
  have hcap := feedOne_withinCap b s h.withinCap
  have hext := feedOne_extends b s
  cases hr : hasRoom s
  · rw [feedOne_of_full b s hr]
    exact h
  · rw [feedOne_of_room b s hr] at hcap hext ⊢
    exact { h with
      withinCap := hcap
      stream := by rw [h.stream, List.append_assoc]
      fedCount := by rw [h.fedCount, List.length_append, List.length_singleton]
      violHead := fun hv => hext.violating (h.violHead hv)
      stallRest := nofun }

/-- A delivery moves the Frame's bytes from RB to the delivered ones; no violation stands before it. -/
theorem StateInv.deliver (hl : hdrLegal s = true) (hw : hdrTotal s ≤ s.rb.length) :
    StateInv (deliver (hdrLength s) (hdrType s) s) := by
  obtain ⟨hmin, hmax⟩ := (legalLength_iff _ _).1 hl
  have hwire := deliver_wire s hmin hw
  have htotal : hdrTotal s = 2 + (hdrLength s).toNat := rfl
  have hpayload := memRead_length 4 (hdrTotal s - 4) s (by omega)
  rw [deliver_eq]
  exact { h with
    withinCap := Bound.admits_of_le (by simp) h.withinCap
    stream := by rw [h.stream, wireOf_concat, hwire, List.append_assoc, List.take_append_drop]
    framesWf := by
      rw [List.forall_mem_append, List.forall_mem_singleton, Frame.wf_iff]
      exact ⟨h.framesWf, by simp only [hpayload]; omega, by simp only [hpayload]; omega⟩
    consumedCount := by
      rw [wireOf_concat, List.length_append, hwire, List.length_take_of_le hw, h.consumedCount]
    emittedCount := by rw [h.emittedCount, List.length_append, List.length_singleton]
    violHead := fun hv => absurd hl (Bool.eq_false_iff.1 (h.violHead hv).2)
    stallRest := nofun }

/-- One EXTRACT, by the outcomes of R187. -/
theorem StateInv.drainPass : StateInv (drainPass (hdrLength s) (hdrType s) s) := by
  rcases drainPass_cases (hdrLength s) (hdrType s) s with ⟨hs, e⟩ | ⟨h4, hl, e⟩ | ⟨-, hl, hp, e⟩ | ⟨hl, hw, e⟩ <;>
    rw [e]
  · exact h.respond .stall fun _ => .inl hs
  · exact (h.setViol ⟨h4, hl⟩).respond _ nofun
  · exact h.respond .stall fun _ => .inr ⟨hl, hp⟩
  · exact h.deliver hl hw

end

/-- Settles O26: each operation a step can perform keeps the invariant. -/
theorem everyStepKeepsTheInvariant : Obligations.EveryStepKeepsTheInvariant := by
  intro s t h hstep
  cases step_result hstep with
  | idle => exact h
  | reset => exact stateInv_resetDec h.cfgValid
  | feedByte w rest b => exact h.popInput.feedOne b
  | feedEof => exact h.popInput.setClosed.respond .streamClosed nofun
  | extract => exact h.popInput.drainPass
  | reservedCmd => exact h.popInput.respond .refused nofun
  | encode => exact h.popInput.sendOut _

/-! ### What the invariant says of the counters -/

/-- Settles O28: the counters are the lengths of the delivered bytes and of the stream. -/
theorem countersLocateTheBufferInTheStream : Obligations.CountersLocateTheBufferInTheStream := by
  intro s h
  obtain ⟨hlo, hhi⟩ := wireOf_length_bounds h.framesWf
  have hfed : s.consumed + s.rb.length = s.fed := by
    rw [h.fedCount, h.stream, List.length_append, h.consumedCount]
  rw [← h.consumedCount, ← h.emittedCount] at hlo hhi
  refine ⟨hfed, hlo, hhi, fun k hk _ => ?_⟩
  rw [h.consumedCount] at hk ⊢
  rw [h.stream, List.getElem?_append_right hk]

end Sys2Proof.Machine
end

section
/-! PROOFS. Room in the Receive Buffer: when the buffer is full, that a full buffer holds a whole frame or an illegal
header, and that a delivery makes room (20_memory.md R56, R57). -/

namespace Sys2Proof.Machine

/-- Within the bound of R22, no room for a byte means that RB is full. -/
theorem hasRoom_eq_false_iff {s : State} (h : s.cfg.rbCap.admits s.rb.length = true) :
    hasRoom s = false ↔ s.cfg.rbCap = .finite s.rb.length := by
  rw [hasRoom]
  cases hcap : s.cfg.rbCap with
  | finite n =>
    simp only [hcap, Bound.admits, decide_eq_true_eq] at h
    simp only [Bound.admits, decide_eq_false_iff_not, Bound.finite.injEq]
    omega
  | inf => simp [Bound.admits]

/-- A full buffer is at least as long as the greatest frame (R8). -/
theorem maxFrameBytes_le_of_full {s : State} (hc : s.cfg.valid = true) (hfull : s.cfg.rbCap = .finite s.rb.length) :
    s.cfg.maxPayload + 4 ≤ s.rb.length := by
  have h := ((Config.valid_iff _).1 hc).2
  rwa [hfull, Bound.admits, decide_eq_true_eq] at h

theorem admits_of_full {s : State} (hfull : s.cfg.rbCap = .finite s.rb.length) :
    s.cfg.rbCap.admits s.rb.length = true := by
  rw [hfull]
  exact decide_eq_true le_rfl

/-- A buffer shorter than one within the bound has room. -/
theorem hasRoom_of_shorter {s t : State} (h : s.cfg.rbCap.admits s.rb.length = true) (hcfg : t.cfg = s.cfg)
    (hlt : t.rb.length < s.rb.length) : hasRoom t = true := by
  rw [hasRoom, hcfg]
  exact Bound.admits_of_le hlt h

/-- A full buffer holds an illegal header or a whole frame at its head. -/
theorem drainPass_of_full (length type : Half) {s : State} (hc : s.cfg.valid = true)
    (hfull : s.cfg.rbCap = .finite s.rb.length) :
    drainPass length type s = raise (.protocolViolation length type) s ∨
    (frameTotal length ≤ s.rb.length ∧ drainPass length type s = deliver length type s) := by
  have hmax := maxFrameBytes_le_of_full hc hfull
  rcases drainPass_cases length type s with ⟨hs, -⟩ | ⟨-, -, e⟩ | ⟨-, hl, hp, -⟩ | ⟨-, hw, e⟩
  · omega
  · exact .inl e
  · have hlegal := ((legalLength_iff _ _).1 hl).2
    rw [frameTotal_eq] at hp
    omega
  · exact .inr ⟨hw, e⟩

theorem hasRoom_deliver (length type : Half) {s : State} (h : s.cfg.rbCap.admits s.rb.length = true)
    (hw : frameTotal length ≤ s.rb.length) : hasRoom (deliver length type s) = true := by
  refine hasRoom_of_shorter h rfl ?_
  rw [frameTotal_eq] at hw
  rw [deliver_eq, frameTotal_eq, List.length_drop]
  omega

/-- Settles O34: a full buffer rules out both STALLs, and a delivery makes room. -/
theorem fullBufferNeverStalls : Obligations.FullBufferNeverStalls := by
  intro d s hc hfull
  refine ⟨_, exec_extract d s, ?_⟩
  rcases drainPass_of_full (hdrLength s) (hdrType s) hc hfull with e | ⟨hw, e⟩ <;> rw [e]
  · exact .inl ⟨_, _, rfl⟩
  · have hroom := hasRoom_deliver (hdrLength s) (hdrType s) (admits_of_full hfull) hw
    exact .inr ⟨⟨_, rfl⟩, fun b => ⟨_, rfl, by rw [feedOne_of_room b _ hroom]⟩⟩

end Sys2Proof.Machine
end

section
/-! PROOFS. A session of whole Frames: fed through any valid buffer by a flow that extracts during a hold, every byte is
accepted, and a last drain delivers what is left (20_memory.md R44, R57; 40_decoder_ops.md R104, R106, R113). -/

namespace Sys2Proof.Machine

/-! ### Draining whole Frames -/

/-- Delivering the Frame at the head of RB leaves the bytes behind it. -/
theorem delivered_rb {s : State} {f : Frame} {rest : List Byte} (hrb : s.rb = f.wire ++ rest) :
    (respond (.frame f) (emit f (consume f.wire.length s))).rb = rest := by
  rw [respond_rb, emit_rb, consume_rb, hrb, List.drop_left]

/-- A drain delivers the whole Frames at the head of RB, one a pass, and goes on with the bytes behind them. -/
theorem drainUpTo_of_wireOf_append {frames : List Frame} {rest : List Byte} (n : Nat) {s : State}
    (hwf : ∀ f ∈ frames, f.wf s.cfg = true) (hrb : s.rb = wireOf frames ++ rest) :
    ∃ t : State, t.cfg = s.cfg ∧ t.rb = rest ∧ t.out = s.out ++ frames ∧
      drainUpTo (n + frames.length) s =
        ⟨frames ++ (drainUpTo n t).frames, (drainUpTo n t).ending, (drainUpTo n t).state⟩ := by
  induction frames generalizing s with
  | nil => exact ⟨s, rfl, hrb, (List.append_nil _).symm, rfl⟩
  | cons f frames ih =>
    obtain ⟨hf, hwf'⟩ := List.forall_mem_cons.1 hwf
    rw [wireOf_cons, List.append_assoc] at hrb
    obtain ⟨t, hcfg, hrest, hout, htail⟩ :=
      ih (s := respond (.frame f) (emit f (consume f.wire.length s))) hwf' (delivered_rb hrb)
    refine ⟨t, hcfg, hrest, by rw [hout, respond_out, emit_out, consume_out, List.append_assoc]; rfl, ?_⟩
    rw [List.length_cons, ← Nat.add_assoc, drainUpTo_succ_of_wire _ hf hrb, htail]
    rfl

/-- A drain of whole Frames and nothing behind them delivers them in order and ends with STALL, RB empty. -/
theorem drain_of_wireOf {frames : List Frame} {s : State} (hwf : ∀ f ∈ frames, f.wf s.cfg = true)
    (hrb : s.rb = wireOf frames) :
    (drain s).ending = .stall ∧ (drain s).state.rb = [] ∧ (drain s).state.out = s.out ++ frames := by
  have hfour := (wireOf_length_bounds hwf).1
  have hfuel : s.rb.length / headerSize + 1 = s.rb.length / 4 - frames.length + 1 + frames.length := by
    rw [headerSize_eq, hrb]
    omega
  obtain ⟨t, -, hempty, hout, hdrain⟩ :=
    drainUpTo_of_wireOf_append (s.rb.length / 4 - frames.length + 1) hwf (hrb.trans (List.append_nil _).symm)
  rw [drain, hfuel, hdrain, drainUpTo_succ_of_atRest _ (.inl (by simp [hempty]))]
  exact ⟨rfl, hempty, hout⟩

/-! ### Feeding whole Frames -/

/-- Between two operations of a session: what is delivered and the Frames still pending are the session's Frames, and
the pending ones' bytes are RB, then the bytes to come. -/
structure Session (frames : List Frame) (coming : List Byte) (s : State) : Prop where
  cfgValid : s.cfg.valid = true
  withinCap : s.cfg.rbCap.admits s.rb.length = true
  framesWf : ∀ f ∈ frames, f.wf s.cfg = true
  pending : ∃ pending, s.out ++ pending = frames ∧ s.rb ++ coming = wireOf pending

section
variable {frames : List Frame} {s : State}

theorem session_resetDec (hc : s.cfg.valid = true) (hwf : ∀ f ∈ frames, f.wf s.cfg = true) :
    Session frames (wireOf frames) (resetDec s) where
  cfgValid := hc
  withinCap := (stateInv_resetDec hc).withinCap
  framesWf := hwf
  pending := ⟨frames, rfl, rfl⟩

/-- An accepted byte moves from the bytes to come to RB. -/
theorem Session.feedOne {b : Byte} {coming : List Byte} (h : Session frames (b :: coming) s)
    (hroom : hasRoom s = true) : Session frames coming (feedOne b s) := by
  have hcap := feedOne_withinCap b s h.withinCap
  obtain ⟨pending, hout, hbytes⟩ := h.pending
  rw [feedOne_of_room b s hroom] at hcap ⊢
  exact { h with
    withinCap := hcap
    pending := ⟨pending, hout, by rw [← hbytes, List.append_assoc, List.singleton_append]⟩ }

/-- A full buffer holds the first pending Frame whole. -/
theorem Session.head_whole {b : Byte} {coming : List Byte} (h : Session frames (b :: coming) s)
    (hroom : hasRoom s = false) :
    ∃ (f : Frame) (pending : List Frame) (rest : List Byte), f.wf s.cfg = true ∧ s.out ++ f :: pending = frames ∧
      s.rb = f.wire ++ rest ∧ rest ++ b :: coming = wireOf pending := by
  have hmax := maxFrameBytes_le_of_full h.cfgValid ((hasRoom_eq_false_iff h.withinCap).1 hroom)
  obtain ⟨_ | ⟨f, pending⟩, hout, hbytes⟩ := h.pending
  · simp at hbytes
  · have hf : f.wf s.cfg = true := h.framesWf f (by simp [← hout])
    have hlen : f.wire.length ≤ s.rb.length := by
      have := ((Frame.wf_iff _ _).1 hf).2
      rw [Frame.wire_length]
      omega
    rw [wireOf_cons] at hbytes
    obtain ⟨rest, hrb⟩ := List.prefix_of_prefix_length_le (List.prefix_append f.wire _)
      (hbytes ▸ List.prefix_append s.rb _) hlen
    rw [← hrb, List.append_assoc] at hbytes
    exact ⟨f, pending, rest, hf, hout, hrb.symm, List.append_cancel_left hbytes⟩

/-- During a hold EXTRACT delivers the first pending Frame, and then there is room (R57). -/
theorem Session.hold {b : Byte} {coming : List Byte} (h : Session frames (b :: coming) s)
    (hroom : hasRoom s = false) :
    Session frames (b :: coming) (perform (.extract 0) s) ∧ hasRoom (perform (.extract 0) s) = true := by
  obtain ⟨f, pending, rest, hf, hout, hrb, hrest⟩ := h.head_whole hroom
  have hrb' := delivered_rb hrb
  have hlt : rest.length < s.rb.length := by rw [hrb, List.length_append, Frame.wire_length]; omega
  rw [perform_extract_of_wire 0 hf hrb]
  refine ⟨{ h with withinCap := ?_, pending := ⟨pending, ?_, ?_⟩ }, hasRoom_of_shorter h.withinCap rfl ?_⟩
  · rw [hrb']
    exact Bound.admits_of_le hlt.le h.withinCap
  · rw [← hout, respond_out, emit_out, consume_out, List.append_assoc, List.singleton_append]
  · rw [hrb', hrest]
  · rwa [hrb']

/-- The flow feeds all the bytes to come: where one is held, EXTRACT makes room. -/
theorem Session.feedFlow {coming : List Byte} (h : Session frames coming s) :
    (feedFlow coming s).1 = .accepted ∧ Session frames [] (feedFlow coming s).2 := by
  induction coming generalizing s with
  | nil => exact ⟨rfl, h⟩
  | cons b coming ih =>
    rw [Machine.feedFlow]
    cases hroom : hasRoom s
    · obtain ⟨hnext, hroom'⟩ := h.hold hroom
      simp only [Bool.false_eq_true, if_false, hroom', if_true]
      exact ih (hnext.feedOne hroom')
    · simp only [if_true, hroom]
      exact ih (h.feedOne hroom)

/-- With no byte to come, a drain delivers the pending Frames. -/
theorem Session.drain (h : Session frames [] s) :
    (drain s).ending = .stall ∧ (drain s).state.rb = [] ∧ (drain s).state.out = frames := by
  obtain ⟨pending, rfl, hrb⟩ := h.pending
  rw [List.append_nil] at hrb
  exact drain_of_wireOf (fun f hf => h.framesWf f (List.mem_append_right _ hf)) hrb

end

theorem wireOf_ne_nil {frames : List Frame} (h : frames ≠ []) : wireOf frames ≠ [] := by
  cases frames with
  | nil => exact absurd rfl h
  | cons f frames => exact List.append_ne_nil_of_left_ne_nil f.wire_ne_nil _

/-- A session of well-formed Frames ends, after the feeding, with no byte to come; only a session of no Frame is a
close. -/
theorem feedChunk_wireOf {frames : List Frame} {s : State} (hc : s.cfg.valid = true)
    (hwf : ∀ f ∈ frames, f.wf s.cfg = true) :
    (feedChunk (some (wireOf frames)) (resetDec s)).1 = (if frames = [] then .streamClosed else .accepted) ∧
    Session frames [] (feedChunk (some (wireOf frames)) (resetDec s)).2 := by
  have h := session_resetDec hc hwf
  split_ifs with hne
  · subst hne
    exact ⟨rfl, { h with }⟩
  · rw [feedChunk_of_ne_nil _ _ (wireOf_ne_nil hne)]
    exact h.feedFlow

/-- The encoded messages are the bytes of the sent Frames. -/
theorem flatMap_encodeFrame (sender : Nat) (messages : List (Half × List Byte)) :
    (messages.flatMap fun m => encodeFrame sender m.1 m.2) =
      wireOf (messages.map fun m => sentFrame sender m.1 m.2) := by
  simp only [wireOf, List.flatMap_map, sentFrame_wire]

/-- Settles O41: the messages are sent as well-formed Frames, and a session of those is fed and drained whole. -/
theorem encodedMessagesArriveInOrder : Obligations.EncodedMessagesArriveInOrder := by
  intro s messages hc
  have hwf : ∀ f ∈ messages.map (fun m => sentFrame s.cfg.maxPayload m.1 m.2), f.wf s.cfg = true := by
    rw [List.forall_mem_map]
    exact fun m _ => sentFrame_wf _ _ _ _ ((Config.valid_iff _).1 hc).1 (Nat.min_le_right _ _)
  obtain ⟨hfed, hsession⟩ := feedChunk_wireOf hc hwf
  obtain ⟨hstall, hempty, hout⟩ := hsession.drain
  simp only [flatMap_encodeFrame, List.length_take, Nat.min_comm s.cfg.maxPayload]
  simp only [List.map_eq_nil_iff] at hfed
  exact ⟨fun hne => hfed.trans (if_neg hne), fun he => hfed.trans (if_pos he), hout, hstall, hempty⟩

end Sys2Proof.Machine
end

section
/-! PROOFS. The bytes of header and payload (20_memory.md R42, R43). -/

namespace Sys2Proof.Machine

/-- Settles O5: the bytes written are quotient and remainder by 256, and a field read is put together from them. -/
theorem headerFieldsAreBigEndian : Obligations.HeaderFieldsAreBigEndian := by
  refine ⟨fun length type => ?_, fun b₀ b₁ b₂ b₃ S => ⟨be16_toNat _ 0, be16_toNat _ 2⟩⟩
  simp only [headerBytes, List.map_cons, List.map_nil, hiByte_toNat, loByte_toNat]

/-- The Frame an EXTRACT answers with is the one a delivery reads off RB. -/
theorem drainPass_rsp_frame {length type : Half} {s : State} {f : Frame}
    (h : (drainPass length type s).rsp = some (.frame f)) :
    2 ≤ length.toNat ∧ frameTotal length ≤ s.rb.length ∧
    f = ⟨length, type, memRead 4 (frameTotal length - 4) s⟩ := by
  rcases drainPass_cases length type s with ⟨-, e⟩ | ⟨-, -, e⟩ | ⟨-, -, -, e⟩ | ⟨hl, hw, e⟩ <;> rw [e] at h
  · nomatch h
  · nomatch h
  · nomatch h
  · exact ⟨((legalLength_iff _ _).1 hl).1, hw, (Response.frame.inj (Option.some.inj h)).symm⟩

/-- Settles O16: a delivery reads the payload at offset 4, and ENCODE puts it behind the four header bytes. -/
theorem payloadIsCarriedVerbatim : Obligations.PayloadIsCarriedVerbatim := by
  refine ⟨fun data s t f hexec hrsp => ?_, fun maxPayload type payload i hi => ?_⟩
  · rw [exec_extract] at hexec
    obtain rfl := Host.Outcome.next.inj hexec
    obtain ⟨hmin, hw, rfl⟩ := drainPass_rsp_frame hrsp
    rw [frameTotal_eq] at hw
    have htotal : frameTotal (hdrLength s) - 4 = (hdrLength s).toNat - 2 := by rw [frameTotal_eq]; omega
    simp only [htotal]
    exact ⟨memRead_length _ _ s (by omega), fun i => memRead_getElem? _ _ i s⟩
  · rw [encodeFrame, List.getElem?_append_right (by simp), headerBytes_length, Nat.add_sub_cancel_left,
      List.getElem?_take_of_lt (by omega)]

end Sys2Proof.Machine
end

section
/-! PROOFS. The ports: the step as the decoded operation, and the response to each command (20_memory.md R46, R47, R56,
R59; 30_encoding.md R85). -/

namespace Sys2Proof.Machine

/-! ### The operation of a step (R46, R82, R87) -/

theorem step_of_encRequest {s : State} {type : Half} {request : Option (List Byte)} {payload : List Byte}
    {rest : List HostEvent} (h : s.inputs = .encRequest type request :: rest) (hp : payloadOperand request = payload)
    (hadmits : s.cfg.encInMax.admits payload.length = true) :
    step s = exec (.encode type payload) { s with inputs := rest } := by
  subst hp
  have hfetch : fetch s = .run (.encode type (payloadOperand request)) := by
    rw [fetch, h]
    exact if_pos hadmits
  rw [step, hfetch, popInput_of_inputs h]

theorem admits_zero (b : Bound) : b.admits 0 = true := by
  cases b with
  | finite n => exact decide_eq_true (Nat.zero_le n)
  | inf => rfl

/-- Settles O18: the fetch decodes the command word or takes the request's operands, `none` being the empty payload,
which every bound admits. -/
theorem stepRunsTheDecodedOperation : Obligations.StepRunsTheDecodedOperation := by
  refine ⟨fun s w rest i hin hdec => ?_, fun s type payload rest hin hadmits => ?_, fun s type rest hin => ?_⟩
  · obtain rfl := Decoded.instr.inj hdec
    rw [step_of_cmd hin, popInput_of_inputs hin]
  · exact step_of_encRequest hin rfl hadmits
  · exact step_of_encRequest hin rfl (admits_zero _)

/-! ### EXTRACT without a Frame (R47) -/

/-- Settles O17: a STALL and a violation leave RB and the parameters alone, and so every test of the next pass. -/
theorem extractWithoutAFrameIsIdempotent : Obligations.ExtractWithoutAFrameIsIdempotent := by
  intro data data' s t hexec hno
  rw [exec_extract] at hexec
  obtain rfl := Host.Outcome.next.inj hexec
  rw [exec_extract]
  rcases drainPass_cases (hdrLength s) (hdrType s) s with ⟨hs, e⟩ | ⟨h4, hl, e⟩ | ⟨h4, hl, hp, e⟩ | ⟨-, -, e⟩ <;>
    rw [e] at hno ⊢
  · exact ⟨congrArg _ (drainPass_of_short _ _ (respond .stall s) hs), rfl, rfl, rfl, rfl, rfl, rfl⟩
  · exact ⟨congrArg _ (drainPass_of_illegal (hdrLength s) (hdrType s) (setViol s) h4 hl), rfl, rfl, rfl, rfl, rfl, rfl⟩
  · exact ⟨congrArg _ (drainPass_of_partial (hdrLength s) _ (respond .stall s) h4 hl hp), rfl, rfl, rfl, rfl, rfl, rfl⟩
  · exact absurd rfl (hno _)

/-! ### The command port (R56, R59, R85) -/

theorem cmdReady_eq_false_iff (s : State) (w : CmdWord) :
    cmdReady s w = false ↔ w.toNat / 256 = 0 ∧ hasRoom s = false := by
  rw [← cmdWord_selects_iff w 0 (by decide), cmdReady, Bool.or_eq_false_iff, Bool.not_eq_false', beq_iff_eq]

/-- The response codes that R85 gives the operation with number `op` in a command word. -/
def responseCodes : Nat → List (BitVec 3)
  | 0 => [0]
  | 1 => [1]
  | 2 => [2, 4, 5]
  | _ => [7]

theorem drainPass_code (length type : Half) (s : State) :
    ∃ r, (drainPass length type s).rsp = some r ∧ r.code ∈ responseCodes 2 := by
  rcases drainPass_cases length type s with ⟨-, e⟩ | ⟨-, -, e⟩ | ⟨-, -, -, e⟩ | ⟨-, -, e⟩ <;> rw [e]
  · exact ⟨.stall, rfl, by decide⟩
  · exact ⟨.protocolViolation length type, rfl, .head _⟩
  · exact ⟨.stall, rfl, by decide⟩
  · exact ⟨.frame _, rfl, .tail _ (.head _)⟩

/-- A command taken while `cmd_ready` is high is answered with a code that R85 gives it. -/
theorem exec_decodeCmd_of_ready {s : State} {w : CmdWord} (hready : cmdReady s w = true) :
    ∃ t r, exec (decodeCmd w) s = .next t ∧ t.rsp = some r ∧ t.inputs = s.inputs ∧
      r.code ∈ responseCodes (w.toNat / 256) := by
  have hlt := w.isLt
  rw [decodeCmd_eq_byOp]
  split_ifs with h0 h1 h2
  · have hroom : hasRoom s = true := by
      by_contra hfull
      rw [(cmdReady_eq_false_iff s w).2 ⟨h0, Bool.eq_false_iff.2 hfull⟩] at hready
      nomatch hready
    refine ⟨_, .ok, rfl, ?_⟩
    rw [feedOne_of_room _ s hroom, h0]
    exact ⟨rfl, rfl, .head _⟩
  · rw [h1]
    exact ⟨_, .streamClosed, rfl, rfl, rfl, .head _⟩
  · obtain ⟨r, hrsp, hcode⟩ := drainPass_code (hdrLength s) (hdrType s) s
    obtain ⟨-, -, -, -, -, hinputs⟩ := drainPass_frame (hdrLength s) (hdrType s) s
    rw [h2]
    exact ⟨_, r, exec_extract _ s, hrsp, hinputs, hcode⟩
  · have h3 : w.toNat / 256 = 3 := by omega
    rw [h3]
    exact ⟨_, .refused, rfl, rfl, rfl, .head _⟩

/-- No operation has the code 3 or 6, and only EXTRACT has more than one. -/
theorem code_of_mem_responseCodes {op : Nat} {c : BitVec 3} (hop : op < 4) (hc : c ∈ responseCodes op) :
    c ≠ 3 ∧ c ≠ 6 ∧ (op = 0 → c = 0) ∧ (op = 1 → c = 1) ∧ (op = 2 → c = 2 ∨ c = 4 ∨ c = 5) ∧ (op = 3 → c = 7) := by
  revert c
  interval_cases op <;> decide

/-- Settles O23: only a FEED_BYTE can meet `cmd_ready` low, and then RB is full and keeps as it is. -/
theorem commandIsAnsweredExactlyWhenReady : Obligations.CommandIsAnsweredExactlyWhenReady := by
  intro s w rest hcap hin
  have hstep : step s = exec (decodeCmd w) { s with inputs := rest } := by
    rw [step_of_cmd hin, popInput_of_inputs hin]
  refine ⟨?_, fun hlow => ?_, fun hready => ?_⟩
  · rw [cmdReady_eq_false_iff, hasRoom_eq_false_iff hcap]
  · obtain ⟨hop, hfull⟩ := (cmdReady_eq_false_iff s w).1 hlow
    rw [hstep, decodeCmd_eq_byOp, if_pos hop]
    exact congrArg _ (feedOne_of_full _ { s with inputs := rest } hfull)
  · obtain ⟨t, r, hexec, hrsp, hinputs, hcode⟩ := exec_decodeCmd_of_ready (s := { s with inputs := rest }) hready
    have hlt := w.isLt
    exact ⟨t, r, hstep.trans hexec, hrsp, hinputs, code_of_mem_responseCodes (by omega) hcode⟩

end Sys2Proof.Machine
end

section
/-! PROOFS. DEC and ENC share no state (20_memory.md R55, 10_state.md R31, 41_encoder_ops.md R150). -/

namespace Sys2Proof.Machine

theorem feedOne_sendOut (b : Byte) (bytes : List Byte) (s : State) :
    feedOne b (sendOut bytes s) = sendOut bytes (feedOne b s) := by
  cases hr : hasRoom s
  · rw [feedOne_of_full b s hr, feedOne_of_full b (sendOut bytes s) hr]
  · rw [feedOne_of_room b s hr, feedOne_of_room b (sendOut bytes s) hr]
    rfl

theorem drainPass_sendOut (length type : Half) (bytes : List Byte) (s : State) :
    drainPass length type (sendOut bytes s) = sendOut bytes (drainPass length type s) := by
  rcases drainPass_cases length type s with ⟨hs, e⟩ | ⟨h4, hl, e⟩ | ⟨h4, hl, hp, e⟩ | ⟨hl, hw, e⟩ <;> rw [e]
  · rw [drainPass_of_short _ _ (sendOut bytes s) hs]
    rfl
  · rw [drainPass_of_illegal _ _ (sendOut bytes s) h4 hl]
    rfl
  · rw [drainPass_of_partial _ _ (sendOut bytes s) h4 hl hp]
    rfl
  · rw [drainPass_of_whole _ _ (sendOut bytes s) hl hw]
    rfl

/-- What ENC has returned makes no difference to an operation of DEC, which neither reads it nor changes it. -/
theorem exec_sendOut {i : Instr} (hi : ∀ ty p, i ≠ .encode ty p) (bytes : List Byte) {s t : State}
    (h : exec i s = .next t) : exec i (sendOut bytes s) = .next (sendOut bytes t) := by
  rcases exec_cases h with ⟨b, rfl, rfl⟩ | ⟨d, rfl, rfl⟩ | ⟨d, rfl, rfl⟩ | ⟨d, rfl, rfl⟩ | ⟨ty, p, rfl, -⟩ |
    ⟨l, ty, hhead, rfl⟩
  · exact congrArg _ (feedOne_sendOut b bytes s)
  · rfl
  · rw [exec_extract, ← drainPass_sendOut]
    rfl
  · rfl
  · exact absurd rfl (hi ty p)
  · rw [exec_of_header hhead, drainPass_sendOut]

/-- No instruction writes the parameters (R8, R32). -/
theorem exec_cfg {i : Instr} {s t : State} (h : exec i s = .next t) : t.cfg = s.cfg := by
  rcases exec_cases h with ⟨b, -, rfl⟩ | ⟨d, -, rfl⟩ | ⟨d, -, rfl⟩ | ⟨d, -, rfl⟩ | ⟨ty, p, -, rfl⟩ | ⟨l, ty, -, rfl⟩
  · exact (feedOne_extends b s).cfg
  · rfl
  · exact (drainPass_frame _ _ s).1
  · rfl
  · rfl
  · exact (drainPass_frame _ _ s).1

theorem exec_encode (type : Half) (payload : List Byte) (s : State) :
    exec (.encode type payload) s = .next (sendOut (encodeFrame s.cfg.maxPayload type payload) s) := rfl

/-- Settles O32: ENCODE reads only the parameters, which no operation writes. -/
theorem decoderAndEncoderCommute : Obligations.DecoderAndEncoderCommute := by
  refine ⟨fun i type payload s t u hi hexec henc => ?_, fun type payload s s' t t' hmax ht ht' => ?_⟩
  · refine ⟨_, exec_encode type payload s, ?_⟩
    rw [exec_sendOut hi _ hexec, ← exec_cfg hexec]
    exact henc
  · rw [exec_encode] at ht ht'
    obtain rfl := Host.Outcome.next.inj ht
    obtain rfl := Host.Outcome.next.inj ht'
    exact ⟨_, sendOut_encOut _ s, by rw [hmax]; exact sendOut_encOut _ s'⟩

end Sys2Proof.Machine
end

section
/-! PROOFS. The decoder and the encoder undo each other (30_encoding.md R70, R71, R77, R79, R82, R90): a command word is
its `op` and `data`, and a header decodes to the one well-formed kind that has its fields. -/

namespace Sys2Proof

/-! ### Command words (R82, R83, R84) -/

theorem cmdWord_toNat (op : BitVec 2) (data : Byte) : (cmdWord op data).toNat = op.toNat * 256 + data.toNat := by
  have h := data.isLt
  rw [cmdWord, BitVec.toNat_append, ← Nat.shiftLeft_add_eq_or_of_lt h, Nat.shiftLeft_eq]

@[simp] theorem cmdData_toNat (w : CmdWord) : (cmdData w).toNat = w.toNat % 256 := by
  simp [cmdData]

theorem cmdWord_op (op : BitVec 2) (data : Byte) : (cmdWord op data).toNat / 256 = op.toNat := by
  have := data.isLt
  rw [cmdWord_toNat]
  omega

@[simp] theorem cmdData_cmdWord (op : BitVec 2) (data : Byte) : cmdData (cmdWord op data) = data := by
  have := data.isLt
  apply BitVec.eq_of_toNat_eq
  rw [cmdData_toNat, cmdWord_toNat]
  omega

/-- A word is put together again from its `op` and `data` fields. -/
theorem cmdWord_cmdData {w : CmdWord} {op : BitVec 2} (h : w.toNat / 256 = op.toNat) : cmdWord op (cmdData w) = w := by
  apply BitVec.eq_of_toNat_eq
  rw [cmdWord_toNat, cmdData_toNat, ← h]
  omega

theorem decodeCmd_cmdWord (op : BitVec 2) (data : Byte) :
    decodeCmd (cmdWord op data) =
      if op.toNat = 0 then .feedByte data
      else if op.toNat = 1 then .feedEof data
      else if op.toNat = 2 then .extract data
      else .reservedCmd data := by
  rw [decodeCmd_eq_byOp, cmdWord_op, cmdData_cmdWord]

theorem encode_decodeCmd (w : CmdWord) : encode (decodeCmd w) = .cmd w := by
  have hlt := w.isLt
  rw [decodeCmd_eq_byOp]
  split_ifs with h0 h1 h2
  · exact congrArg Encoding.cmd (cmdWord_cmdData h0)
  · exact congrArg Encoding.cmd (cmdWord_cmdData h1)
  · exact congrArg Encoding.cmd (cmdWord_cmdData h2)
  · have h3 : w.toNat / 256 = 3 := by omega
    exact congrArg Encoding.cmd (cmdWord_cmdData h3)

/-! ### Headers (R71, R77, R79) -/

@[simp] theorem inBlock_iff (lo hi : Nat) (length : Half) :
    inBlock lo hi length = true ↔ lo ≤ length.toNat ∧ length.toNat ≤ hi := by
  rw [inBlock, Bool.and_eq_true, decide_eq_true_eq, decide_eq_true_eq]

@[simp] theorem tableLegalLength_iff (length : Half) :
    tableLegalLength length = true ↔ 2 ≤ length.toNat ∧ length.toNat ≤ 1026 := inBlock_iff 2 1026 length

theorem isAssignedType_eq_false_iff (type : Half) :
    isAssignedType type = false ↔ type ≠ typeChat ∧ type ≠ typeJoinRoom ∧ type ≠ typeLeaveRoom := by
  simp only [isAssignedType, Bool.or_eq_false_iff, beq_eq_false_iff_ne, and_assoc]

theorem kindByRange_wellFormed (c : Config) (length type : Half) : (kindByRange length type).wellFormed c = true := by
  apply kindByRange_elim (fun i => i.wellFormed c = true)
  case chat => exact fun h _ => h
  case join => exact fun h _ => h
  case leave => exact fun h _ => h
  case other => exact fun h ho => Bool.and_eq_true_iff.2 ⟨h, by rw [ho]; rfl⟩
  all_goals exact id

/-- With a legal `length` every test on `length` fails, and the type decides. -/
theorem kindByRange_of_legal {length : Half} (h : tableLegalLength length = true) (type : Half) :
    kindByRange length type =
      if type = typeChat then .chat length
      else if type = typeJoinRoom then .joinRoom length
      else if type = typeLeaveRoom then .leaveRoom length
      else .opaqueFrame length type := by
  rw [tableLegalLength_iff] at h
  rw [kindByRange]
  iterate 15 rw [if_neg (by omega)]

/-- No other kind has this header: the blocks of R79 do not meet, so a well-formed illegal kind fails every test before
its own. -/
theorem kindByRange_of_wellFormed {c : Config} {i : Instr} {length type : Half} (hwf : i.wellFormed c = true)
    (hhead : i.header = some (length, type)) : kindByRange length type = i := by
  cases i with
  | feedByte | feedEof | extract | reservedCmd | encode => nomatch hhead
  | chat | joinRoom | leaveRoom =>
    cases hhead
    rw [kindByRange_of_legal hwf]
    rfl
  | opaqueFrame =>
    cases hhead
    obtain ⟨hlegal, hother⟩ := Bool.and_eq_true_iff.1 hwf
    obtain ⟨hc, hj, hl⟩ := (isAssignedType_eq_false_iff _).1 (Bool.not_eq_true' _ ▸ hother)
    rw [kindByRange_of_legal hlegal, if_neg hc, if_neg hj, if_neg hl]
  | _ =>
    cases hhead
    have hblock := (inBlock_iff _ _ _).1 hwf
    rw [kindByRange]
    repeat rw [if_neg (by omega)]
    rw [if_pos hblock]

/-- A header word decodes to the one well-formed instruction that has its fields. -/
theorem decodeHeader_eq_iff (c : Config) (H : HeaderWord) (i : Instr) :
    decodeHeader H = i ↔ i.wellFormed c = true ∧ i.header = some (wordLength H, wordType H) := by
  rw [decodeHeader_eq_kindByRange]
  constructor
  · rintro rfl
    exact ⟨kindByRange_wellFormed c _ _, kindByRange_header _ _⟩
  · exact fun ⟨hwf, hhead⟩ => kindByRange_of_wellFormed hwf hhead

theorem decode_stream_of_short {bytes : List Byte} (h : bytes.length < 4) :
    decode (.stream bytes) = .rejected .headerNotBuffered := if_pos h

/-- Of a stream with a header the decoder answers the well-formed instruction with its fields, and no other. -/
theorem decode_stream_eq_iff (c : Config) {bytes : List Byte} (h : 4 ≤ bytes.length) (i : Instr) :
    decode (.stream bytes) = .instr i ↔ i.wellFormed c = true ∧ i.header = some (be16 bytes 0, be16 bytes 2) := by
  have hbuffered : ¬ bytes.length < headerSize := Nat.not_lt.2 h
  rw [decode, if_neg hbuffered, Decoded.instr.injEq, decodeHeader_eq_iff c, wordLength_headerWord, wordType_headerWord]

theorem encode_of_header {i : Instr} {length type : Half} (h : i.header = some (length, type)) :
    encode i = .stream (headerBytes length type) := by
  cases i with
  | feedByte | feedEof | extract | reservedCmd | encode => nomatch h
  | _ => cases h; rfl

theorem decode_headerBytes {c : Config} {i : Instr} {length type : Half} (hwf : i.wellFormed c = true)
    (hhead : i.header = some (length, type)) : decode (.stream (headerBytes length type)) = .instr i := by
  have hlength := be16_headerBytes_length length type []
  have htype := be16_headerBytes_type length type []
  rw [List.append_nil] at hlength htype
  rw [decode_stream_eq_iff c (headerBytes_length length type).ge, hlength, htype]
  exact ⟨hwf, hhead⟩

/-! ### The round trips -/

/-- Settles O1: a command word keeps `op` and `data`, a request its operands, and the header of a frame kind is that of
no other well-formed kind. -/
theorem decodeOfEncodeIsTheInstruction : Obligations.DecodeOfEncodeIsTheInstruction := by
  intro c i hwf
  cases i with
  | feedByte b => exact congrArg Decoded.instr (decodeCmd_cmdWord 0 b)
  | feedEof data => exact congrArg Decoded.instr (decodeCmd_cmdWord 1 data)
  | extract data => exact congrArg Decoded.instr (decodeCmd_cmdWord 2 data)
  | reservedCmd data => exact congrArg Decoded.instr (decodeCmd_cmdWord 3 data)
  | encode type payload => rfl
  | _ => exact decode_headerBytes hwf rfl

/-- Settles O2: the header fields of a stream are written back as its first four bytes. -/
theorem encodeOfDecodedIsTheEncoding : Obligations.EncodeOfDecodedIsTheEncoding := by
  refine ⟨encode_decodeCmd, fun c bytes h => ?_, fun bytes => decode_stream_of_short⟩
  have hhead := kindByRange_header (be16 bytes 0) (be16 bytes 2)
  have hwf := kindByRange_wellFormed c (be16 bytes 0) (be16 bytes 2)
  refine ⟨_, (decode_stream_eq_iff c h _).2 ⟨hwf, hhead⟩, ?_, hwf, hhead⟩
  rw [encode_of_header hhead, take_four_eq_headerBytes bytes h]

/-- Settles O4: each word is evaluated through the table's rows. -/
theorem writtenOutWordsDecode : Obligations.WrittenOutWordsDecode := by
  unfold Obligations.WrittenOutWordsDecode
  decide

end Sys2Proof
end

section
/-! PROOFS. The rows of format FRAME as a partition of the header words (30_encoding.md R77, R79, R90). -/

namespace Sys2Proof

/-! ### The fourteen high rows (R79) -/

/-- The least `length` of a row that fixes high bits of the header word. -/
def FrameRow.blockLow (r : FrameRow) : Nat := r.value.toNat / 65536

/-- The greatest `length` of such a row: every bit outside the mask is one. -/
def FrameRow.blockHigh (r : FrameRow) : Nat := (r.value.toNat + (~~~r.mask).toNat) / 65536

/-- The mask of a high row is the ones above some bit `k`, and its `match` has zeros below: so the row is a block. -/
theorem illegalHighRows_masks : ∀ r ∈ illegalHighRows, ∃ k < 32, r.mask.toNat = (2 ^ (32 - k) - 1) <<< k ∧
    r.value.toNat = r.blockLow * 65536 ∧ r.blockLow * 65536 + 2 ^ k = (r.blockHigh + 1) * 65536 ∧
    r.blockLow * 65536 % 2 ^ k = 0 := by
  decide

theorem selects_iff_of_mem_illegalHighRows {r : FrameRow} (hr : r ∈ illegalHighRows) (H : HeaderWord) :
    r.selects H = true ↔ r.blockLow ≤ (wordLength H).toNat ∧ (wordLength H).toNat ≤ r.blockHigh := by
  obtain ⟨k, hk, hmask, hlow, hhigh, hdvd⟩ := illegalHighRows_masks r hr
  exact selects_block r (32 - k) k _ _ hmask (by omega) hlow hhigh hdvd H

/-- The blocks of the high rows ascend, so no two of them meet. -/
theorem illegalHighRows_ascend : illegalHighRows.Pairwise (fun r q => r.blockHigh < q.blockLow) := by
  decide

/-- The `length` block column of R79. -/
theorem illegalHighRows_blocks : illegalHighRows.map (fun r => (r.blockLow, r.blockHigh)) =
    [(0x0403, 0x0403), (0x0404, 0x0407), (0x0408, 0x040F), (0x0410, 0x041F), (0x0420, 0x043F), (0x0440, 0x047F),
      (0x0480, 0x04FF), (0x0500, 0x05FF), (0x0600, 0x07FF), (0x0800, 0x0FFF), (0x1000, 0x1FFF), (0x2000, 0x3FFF),
      (0x4000, 0x7FFF), (0x8000, 0xFFFF)] := by
  decide

/-- The blocks of the high rows leave no gap from 1027 on. -/
theorem illegalHighRows_cover (n : Nat) (hn : n < 65536) :
    (∃ r ∈ illegalHighRows, r.blockLow ≤ n ∧ n ≤ r.blockHigh) ↔ 1027 ≤ n := by
  have hmap : (∃ r ∈ illegalHighRows, r.blockLow ≤ n ∧ n ≤ r.blockHigh) ↔
      ∃ b ∈ illegalHighRows.map (fun r => (r.blockLow, r.blockHigh)), b.1 ≤ n ∧ n ≤ b.2 := by
    simp only [List.mem_map, exists_exists_and_eq_and]
  rw [hmap, illegalHighRows_blocks]
  simp only [List.exists_mem_cons_iff, List.not_mem_nil, false_and, exists_false, or_false]
  omega

/-! ### The kind of a header (R77, R79) -/

theorem isIllegalHeader_iff {c : Config} {i : Instr} {length type : Half} (hwf : i.wellFormed c = true)
    (hhead : i.header = some (length, type)) :
    i.isIllegalHeader = true ↔ length.toNat < 2 ∨ 1026 < length.toNat := by
  cases i with
  | feedByte | feedEof | extract | reservedCmd | encode => nomatch hhead
  | chat | joinRoom | leaveRoom =>
    cases hhead
    have hlegal := (tableLegalLength_iff _).1 hwf
    exact iff_of_false nofun (by omega)
  | opaqueFrame =>
    cases hhead
    have hlegal := (tableLegalLength_iff _).1 (Bool.and_eq_true_iff.1 hwf).1
    exact iff_of_false nofun (by omega)
  | _ =>
    cases hhead
    have hblock := (inBlock_iff _ _ _).1 hwf
    exact iff_of_true rfl (by omega)

/-- A header of legal `length` goes to the kind of its type. -/
theorem decodeHeader_of_legal {H : HeaderWord} (h : tableLegalLength (wordLength H) = true) :
    (decodeHeader H = .chat (wordLength H) ↔ wordType H = typeChat) ∧
    (decodeHeader H = .joinRoom (wordLength H) ↔ wordType H = typeJoinRoom) ∧
    (decodeHeader H = .leaveRoom (wordLength H) ↔ wordType H = typeLeaveRoom) ∧
    (decodeHeader H = .opaqueFrame (wordLength H) (wordType H) ↔ isAssignedType (wordType H) = false) := by
  simp only [decodeHeader_eq_iff .document, Instr.wellFormed, Instr.header, h, Bool.true_and, Bool.not_eq_true',
    Option.some.injEq, Prod.mk.injEq, true_and, and_true, eq_comm (b := wordType H)]

/-- The assigned types are 1, 2 and 3 (R77). -/
theorem isAssignedType_eq_false_iff_toNat (type : Half) :
    isAssignedType type = false ↔ type.toNat = 0 ∨ 4 ≤ type.toNat := by
  rw [isAssignedType_eq_false_iff, ne_eq, ne_eq, ne_eq, ← BitVec.toNat_inj, ← BitVec.toNat_inj, ← BitVec.toNat_inj]
  change type.toNat ≠ 1 ∧ type.toNat ≠ 2 ∧ type.toNat ≠ 3 ↔ _
  omega

/-- Settles O3: a row selects the block of `length` of the table's other column, and those blocks ascend without a gap.
-/
theorem tableRowsPartitionTheHeaders : Obligations.TableRowsPartitionTheHeaders := by
  refine ⟨fun H => ?_, ?_, fun H => ?_, fun H hlow hhigh => ?_⟩
  · obtain ⟨hwf, hhead⟩ := (decodeHeader_eq_iff .document H _).1 rfl
    exact isIllegalHeader_iff hwf hhead
  · refine illegalHighRows_ascend.imp_of_mem fun {r q} hr hq hlt H ⟨hrs, hqs⟩ => ?_
    rw [selects_iff_of_mem_illegalHighRows hr] at hrs
    rw [selects_iff_of_mem_illegalHighRows hq] at hqs
    omega
  · rw [← illegalHighRows_cover _ (wordLength H).isLt]
    exact exists_congr fun r => and_congr_right fun hr => selects_iff_of_mem_illegalHighRows hr H
  · obtain ⟨hchat, hjoin, hleave, hother⟩ := decodeHeader_of_legal ((tableLegalLength_iff _).2 ⟨hlow, hhigh⟩)
    rw [hchat, hjoin, hleave, hother]
    exact ⟨BitVec.toNat_inj.symm, BitVec.toNat_inj.symm, BitVec.toNat_inj.symm, isAssignedType_eq_false_iff_toNat _⟩

end Sys2Proof
end

section
/-! PROOFS. The operations of DEC by their command words (30_encoding.md R83, R84), and the table's words as the step
runs them (log entry 7). -/

namespace Sys2Proof.Machine

/-- Settles O9: `op = 3` is none of the three other operations, and REFUSED is written to the response port alone. -/
theorem reservedCommandIsRefused : Obligations.ReservedCommandIsRefused := by
  intro w s hop
  rw [decodeCmd_eq_byOp, hop]
  exact ⟨rfl, rfl⟩

/-- Settles O15: neither meaning has `data` in it, and a word below 256 has `op = 0` and itself as `data`. -/
theorem ignoredDataMakesNoDifference : Obligations.IgnoredDataMakesNoDifference := by
  refine ⟨fun d d' s => ⟨rfl, by rw [exec_extract, exec_extract]⟩, fun w hw => ⟨cmdData w, ?_, ?_⟩⟩
  · have hop : w.toNat / 256 = 0 := Nat.div_eq_of_lt hw
    rw [decode, decodeCmd_eq_byOp, if_pos hop]
  · rw [cmdData_toNat, Nat.mod_eq_of_lt hw]

theorem exec_answers (i : Instr) (s : State) : ∃ t, exec i s = .next t := by
  cases i <;> exact ⟨_, rfl⟩

/-- Whatever is placed, the header read at the head of RB is that of the placed frame. -/
theorem hdr_placeEncoding_stream (bytes : List Byte) (s : State) :
    hdrLength (placeEncoding (.stream bytes) s) = be16 bytes 0 ∧
    hdrType (placeEncoding (.stream bytes) s) = be16 bytes 2 := by
  have hrb : (placeEncoding (.stream bytes) s).rb = headerBytes (be16 bytes 0) (be16 bytes 2) ++ _ :=
    List.append_assoc ..
  exact ⟨hdrLength_of_rb hrb, hdrType_of_rb hrb⟩

/-- The loader does what it is for: the next step runs the placed instruction, if the port can present it. -/
theorem step_placeEncoding {e : Encoding} {i : Instr} (s : State) (hdec : decode e = .instr i)
    (hadmits : ∀ type payload, e = .encReq type payload → s.cfg.encInMax.admits payload.length = true) :
    step (placeEncoding e s) = exec i { placeEncoding e s with inputs := s.inputs } := by
  cases e with
  | cmd w =>
    obtain rfl := Decoded.instr.inj hdec
    exact step_of_cmd rfl
  | encReq type payload =>
    obtain rfl := Decoded.instr.inj hdec
    exact step_of_encRequest rfl rfl (hadmits type payload rfl)
  | stream bytes =>
    obtain ⟨hlength, htype⟩ := hdr_placeEncoding_stream bytes s
    have hcmd : decodeCmd (cmdWord 2 0) = .extract 0 := decodeCmd_cmdWord 2 0
    rw [exec_of_header (header_of_decode_stream hdec), ← hlength, ← htype, step_of_cmd rfl, hcmd, exec_extract]
    rfl

/-- The table has one word for ENC, the request with type 0 and no payload. -/
theorem payload_of_tableEncoding {nbits w : Nat} {type : Half} {payload : List Byte}
    (h : tableEncoding nbits w = some (.encReq type payload)) : payload = [] := by
  rw [tableEncoding] at h
  split_ifs at h <;> cases h
  rfl

theorem exists_encoding_of_decodeTableWord {nbits w : Nat} {i : Instr} (h : decodeTableWord nbits w = some i) :
    ∃ e, tableEncoding nbits w = some e ∧ decode e = .instr i := by
  cases htable : tableEncoding nbits w with
  | none =>
    rw [decodeTableWord, htable] at h
    nomatch h
  | some e =>
    cases hdec : decode e with
    | instr j =>
      simp only [decodeTableWord, htable, hdec, Option.some.injEq] at h
      exact ⟨e, rfl, by rw [hdec, h]⟩
    | rejected why =>
      simp only [decodeTableWord, htable, hdec] at h
      nomatch h

theorem withFetchWord_of_tableEncoding {nbits w : Nat} {e : Encoding} (h : tableEncoding nbits w = some e) (s : State) :
    s.withFetchWord nbits w = placeEncoding e s := by
  rw [State.withFetchWord, h]

/-- Settles O24: the word is placed as what it decodes to, and the table's one request has the empty payload, which
every port can present. -/
theorem storedTableWordIsRunNext : Obligations.StoredTableWordIsRunNext := by
  intro s nbits w i hword
  obtain ⟨e, htable, hdec⟩ := exists_encoding_of_decodeTableWord hword
  have hadmits : ∀ type payload, e = .encReq type payload → s.cfg.encInMax.admits payload.length = true := by
    rintro type payload rfl
    rw [payload_of_tableEncoding htable]
    exact admits_zero _
  rw [withFetchWord_of_tableEncoding htable, step_placeEncoding s hdec hadmits]
  obtain ⟨t, ht⟩ := exec_answers i { placeEncoding e s with inputs := s.inputs }
  exact ⟨t, ht, ht⟩

end Sys2Proof.Machine
end

section
/-! PROOFS. The single operations of DEC by their command words and by the bytes at the head of RB (30_encoding.md R82;
40_decoder_ops.md R101 to R103, R110, R111, R187). -/

namespace Sys2Proof.Machine

/-! ### Command words (R82) -/

/-- A word with the number `op * 256 + data` is the command word of the two fields. -/
theorem eq_cmdWord_of_toNat {w : CmdWord} {op : BitVec 2} {data : Byte} (h : w.toNat = op.toNat * 256 + data.toNat) :
    w = cmdWord op data := by
  apply BitVec.eq_of_toNat_eq
  rw [h, cmdWord_toNat]

/-! ### FEED_BYTE and FEED_EOF (R101, R102) -/

/-- There is room unless the bound is finite and reached. -/
theorem hasRoom_iff (s : State) : hasRoom s = true ↔ ∀ n, s.cfg.rbCap = .finite n → s.rb.length < n := by
  cases hcap : s.cfg.rbCap with
  | finite n => simp only [hasRoom_iff_lt s n hcap, Bound.finite.injEq, forall_eq']
  | inf => simp [hasRoom, hcap, Bound.admits]

theorem hasRoom_of_full {s : State} (hfull : s.cfg.rbCap = .finite s.rb.length) : hasRoom s = false :=
  (hasRoom_eq_false_iff (admits_of_full hfull)).2 hfull

/-- Settles O6: `op = 0`, and by the room in RB the byte is appended or held. -/
theorem feedByteAppendsOrIsHeld : Obligations.FeedByteAppendsOrIsHeld := by
  refine fun b s => ⟨fun w hw => ?_, fun hroom => ⟨feedOne b s, rfl, ?_⟩, fun hfull => ?_⟩
  · obtain rfl : w = cmdWord 0 b := eq_cmdWord_of_toNat (by simpa using hw)
    exact congrArg Decoded.instr (decodeCmd_cmdWord 0 b)
  · rw [feedOne_of_room b s ((hasRoom_iff s).2 hroom)]
  · exact congrArg _ (feedOne_of_full b s (hasRoom_of_full hfull))

/-- Settles O7: `op = 1`, and raising StreamClosed reads nothing. -/
theorem feedEofRaisesStreamClosed : Obligations.FeedEofRaisesStreamClosed := by
  refine fun data s => ⟨congrArg Host.Outcome.next (raise_streamClosed s), fun w hw => ?_⟩
  obtain rfl : w = cmdWord 1 data := eq_cmdWord_of_toNat (by simpa using hw)
  exact congrArg Decoded.instr (decodeCmd_cmdWord 1 data)

/-! ### EXTRACT (R103, R187) -/

theorem hdr_of_rb_cons {s : State} {b₀ b₁ b₂ b₃ : Byte} {rest : List Byte} {length type : Half}
    (hrb : s.rb = b₀ :: b₁ :: b₂ :: b₃ :: rest) (hlength : length.toNat = b₀.toNat * 256 + b₁.toNat)
    (htype : type.toNat = b₂.toNat * 256 + b₃.toNat) : hdrLength s = length ∧ hdrType s = type := by
  constructor <;> apply BitVec.eq_of_toNat_eq
  · rw [hlength, hdrLength, hrb, be16_toNat]
    rfl
  · rw [htype, hdrType, hrb, be16_toNat]
    rfl

/-- Settles O8: `op = 2`, and one pass over the header at the head of RB has these four outcomes. -/
theorem extractFollowsItsFourTests : Obligations.ExtractFollowsItsFourTests := by
  refine fun data s => ⟨fun w hw => ?_, fun hs => ?_, fun b₀ b₁ b₂ b₃ rest length type hrb hlength htype => ?_⟩
  · obtain rfl : w = cmdWord 2 data := eq_cmdWord_of_toNat (by simpa using hw)
    exact congrArg Decoded.instr (decodeCmd_cmdWord 2 data)
  · rw [exec_extract, drainPass_of_short _ _ s hs]
    rfl
  · have h4 : 4 ≤ s.rb.length := by simp [hrb]
    obtain ⟨hl, ht⟩ := hdr_of_rb_cons hrb hlength htype
    rw [exec_extract, hl, ht]
    refine ⟨fun hillegal => ?_, fun hmin hmax hpartial => ?_, fun hmin hmax hwhole => ?_⟩
    · rw [drainPass_of_illegal _ _ s h4 ((legalLength_false_iff _ _).2 hillegal), raise_protocolViolation]
    · rw [drainPass_of_partial _ _ s h4 ((legalLength_iff _ _).2 ⟨hmin, hmax⟩) hpartial]
      rfl
    · have hpayload : memRead 4 (frameTotal length - 4) s = rest.take (length.toNat - 2) := by
        rw [memRead, hrb, frameTotal_eq, show 2 + length.toNat - 4 = length.toNat - 2 by omega]
        rfl
      rw [drainPass_of_whole _ _ s ((legalLength_iff _ _).2 ⟨hmin, hmax⟩) hwhole, deliver_eq, hpayload]

end Sys2Proof.Machine
end

section
/-! PROOFS. The delivered Frames in the stream (40_decoder_ops.md R112). -/

namespace Sys2Proof.Machine

/-- The bytes of a well-formed Frame are its total, `2 + length`. -/
theorem Frame.wire_length_of_wf {c : Config} {f : Frame} (h : f.wf c = true) : f.wire.length = 2 + f.length.toNat := by
  have hlen := ((Frame.wf_iff _ _).1 h).1
  rw [Frame.wire_length]
  omega

theorem sum_totals {c : Config} {frames : List Frame} (h : ∀ f ∈ frames, f.wf c = true) :
    (frames.map fun f => 2 + f.length.toNat).sum = (wireOf frames).length := by
  induction frames with
  | nil => rfl
  | cons f frames ih =>
    obtain ⟨hf, hframes⟩ := List.forall_mem_cons.1 h
    rw [List.map_cons, List.sum_cons, ih hframes, wireOf_cons, List.length_append, Frame.wire_length_of_wf hf]

/-- Frame `k` stands in the packed bytes behind those of the `k` Frames before it. -/
theorem wireOf_eq_take_append {frames : List Frame} {k : Nat} {f : Frame} (h : frames[k]? = some f) :
    wireOf frames = wireOf (frames.take k) ++ (f.wire ++ wireOf (frames.drop (k + 1))) := by
  obtain ⟨hk, rfl⟩ := List.getElem?_eq_some_iff.1 h
  rw [← wireOf_cons, ← List.drop_eq_getElem_cons hk, wireOf, wireOf, wireOf, ← List.flatMap_append,
    List.take_append_drop]

/-- Settles O27: under the invariant the stream is the delivered Frames' bytes, packed, and then RB. -/
theorem framesTileTheStreamExactlyOnce : Obligations.FramesTileTheStreamExactlyOnce := by
  intro s h
  refine ⟨by rw [sum_totals h.framesWf, h.consumedCount], fun k f hk => ?_⟩
  have hf : f.wf s.cfg = true := h.framesWf f (List.mem_of_getElem? hk)
  rw [sum_totals fun g hg => h.framesWf g (List.mem_of_mem_take hg), ← Frame.wire_length_of_wf hf, h.stream,
    wireOf_eq_take_append hk, List.append_assoc, List.drop_left, List.append_assoc, List.take_left]
  rfl

end Sys2Proof.Machine
end

section
/-! PROOFS. A violation at the head of RB stays until RESET (20_memory.md R58, 40_decoder_ops.md R109). -/

namespace Sys2Proof.Machine

/-- Behind an illegal header no operation of DEC or ENC delivers, consumes or exceeds the bound of RB. -/
structure Stuck (s t : State) : Prop extends Extends s t where
  consumed : t.consumed = s.consumed
  emitted : t.emitted = s.emitted
  withinCap : s.cfg.rbCap.admits s.rb.length = true → t.cfg.rbCap.admits t.rb.length = true

theorem Stuck.refl (s : State) : Stuck s s := ⟨.refl s, rfl, rfl, id⟩

theorem Stuck.trans {s t u : State} (h : Stuck s t) (h' : Stuck t u) : Stuck s u :=
  ⟨h.toExtends.trans h'.toExtends, h'.consumed.trans h.consumed, h'.emitted.trans h.emitted,
    h'.withinCap ∘ h.withinCap⟩

theorem feedOne_counters (b : Byte) (s : State) :
    (feedOne b s).consumed = s.consumed ∧ (feedOne b s).emitted = s.emitted := by
  cases hr : hasRoom s
  · rw [feedOne_of_full b s hr]
    exact ⟨rfl, rfl⟩
  · rw [feedOne_of_room b s hr]
    exact ⟨rfl, rfl⟩

theorem feedOne_stuck (b : Byte) (s : State) : Stuck s (feedOne b s) := by
  obtain ⟨hconsumed, hemitted⟩ := feedOne_counters b s
  exact ⟨feedOne_extends b s, hconsumed, hemitted, feedOne_withinCap b s⟩

theorem perform_stuck {i : Instr} {s : State} (hi : i.header = none) (h : Violating s) : Stuck s (perform i s) := by
  cases i with
  | feedByte b => exact feedOne_stuck b s
  | extract d =>
    rw [perform_extract_of_violating d h]
    exact ⟨⟨rfl, rfl, List.prefix_rfl⟩, rfl, rfl, id⟩
  | feedEof | reservedCmd | encode => exact ⟨⟨rfl, rfl, List.prefix_rfl⟩, rfl, rfl, id⟩
  | _ => nomatch hi

theorem performAll_stuck {ops : List Instr} {s : State} (hops : ∀ i ∈ ops, i.header = none) (h : Violating s) :
    Stuck s (performAll ops s) := by
  induction ops generalizing s with
  | nil => exact .refl s
  | cons i ops ih =>
    obtain ⟨hi, hops'⟩ := List.forall_mem_cons.1 hops
    have hnext := perform_stuck hi h
    exact hnext.trans (ih hops' (hnext.violating h))

/-- What is appended behind a full buffer is nothing. -/
theorem Stuck.rb_eq_of_full {s t : State} (h : Stuck s t) (hfull : s.cfg.rbCap = .finite s.rb.length) :
    t.rb = s.rb := by
  have hcap := h.withinCap (admits_of_full hfull)
  rw [h.cfg, hfull, Bound.admits, decide_eq_true_eq] at hcap
  exact (h.rb.eq_of_length_le hcap).symm

/-- Settles O33: the operations leave the illegal header at the head, and a full buffer as it is. -/
theorem violationStaysUntilReset : Obligations.ViolationStaysUntilReset := by
  intro ops s h hops
  have hstuck := performAll_stuck hops h
  generalize performAll ops s = t at hstuck ⊢
  obtain ⟨hlength, htype⟩ := hstuck.header h.1
  refine ⟨?_, hstuck.out, hstuck.consumed, hstuck.emitted, fun d => ⟨_, exec_extract d t, ?_⟩, fun hfull => ?_⟩
  · obtain ⟨T, hT⟩ := hstuck.rb
    rw [← hT]
    exact List.take_append_of_le_length h.1
  · obtain ⟨h4, hl⟩ := hstuck.violating h
    rw [drainPass_of_illegal _ _ t h4 hl, hlength, htype]
    exact ⟨rfl, rfl⟩
  · have hrb := hstuck.rb_eq_of_full hfull
    rw [← hstuck.cfg, ← hrb] at hfull
    exact ⟨hrb, fun b => congrArg _ (feedOne_of_full b t (hasRoom_of_full hfull))⟩

end Sys2Proof.Machine
end

section
/-! PROOFS. What a drain does, by the head of RB: the three ways it begins, its equation for each, and the induction
along them; then its end, its Frames and its residue (40_decoder_ops.md R105 to R108, R115, R116, R121). -/

namespace Sys2Proof.Machine

/-! ### The head of RB -/

/-- The state a delivery of Frame `f` leaves. -/
def deliverFrame (f : Frame) (s : State) : State := respond (.frame f) (emit f (consume f.wire.length s))

@[simp] theorem deliverFrame_cfg (f : Frame) (s : State) : (deliverFrame f s).cfg = s.cfg := rfl
@[simp] theorem deliverFrame_out (f : Frame) (s : State) : (deliverFrame f s).out = s.out ++ [f] := rfl
@[simp] theorem deliverFrame_viol (f : Frame) (s : State) : (deliverFrame f s).viol = s.viol := rfl

theorem deliverFrame_rb {s : State} {f : Frame} {rest : List Byte} (hrb : s.rb = f.wire ++ rest) :
    (deliverFrame f s).rb = rest := delivered_rb hrb

/-- A legal header with all its bytes behind it is a whole well-formed Frame. -/
theorem exists_wire_of_whole {s : State} (hl : hdrLegal s = true) (hw : hdrTotal s ≤ s.rb.length) :
    ∃ (f : Frame) (rest : List Byte), f.wf s.cfg = true ∧ s.rb = f.wire ++ rest := by
  obtain ⟨hmin, hmax⟩ := (legalLength_iff _ _).1 hl
  have htotal : hdrTotal s = 2 + (hdrLength s).toNat := rfl
  have hpayload := memRead_length 4 (hdrTotal s - 4) s (by omega)
  refine ⟨⟨hdrLength s, hdrType s, memRead 4 (hdrTotal s - 4) s⟩, s.rb.drop (hdrTotal s), ?_, ?_⟩
  · rw [Frame.wf_iff, hpayload]
    simp only
    omega
  · rw [deliver_wire s hmin hw, List.take_append_drop]

/-- RB is at rest, or begins with an illegal header, or begins with a whole well-formed Frame. -/
theorem head_cases (s : State) :
    AtRest s ∨ Violating s ∨ ∃ (f : Frame) (rest : List Byte), f.wf s.cfg = true ∧ s.rb = f.wire ++ rest := by
  by_cases hs : s.rb.length < 4
  · exact .inl (.inl hs)
  · cases hl : hdrLegal s
    · exact .inr (.inl ⟨Nat.not_lt.1 hs, hl⟩)
    · by_cases hp : s.rb.length < hdrTotal s
      · exact .inl (.inr ⟨hl, hp⟩)
      · exact .inr (.inr (exists_wire_of_whole hl (Nat.not_lt.1 hp)))

/-- Induction along a drain: it ends at rest or at an illegal header, and goes on behind a whole Frame. -/
theorem drain_induction {P : State → Prop} (atRest : ∀ s, AtRest s → P s) (violating : ∀ s, Violating s → P s)
    (whole : ∀ s f rest, f.wf s.cfg = true → s.rb = f.wire ++ rest → P (deliverFrame f s) → P s) (s : State) : P s := by
  induction hn : s.rb.length using Nat.strong_induction_on generalizing s with
  | h n ih =>
    rcases head_cases s with h | h | ⟨f, rest, hf, hrb⟩
    · exact atRest s h
    · exact violating s h
    · refine whole s f rest hf hrb (ih _ ?_ (deliverFrame f s) rfl)
      rw [deliverFrame_rb hrb, ← hn, hrb, List.length_append, Frame.wire_length]
      omega

/-! ### The equations of a drain -/

/-- More fuel than there are headers in RB makes no difference (R107). -/
theorem drainUpTo_congr_fuel {m n : Nat} {s : State} (hm : s.rb.length < 4 * m) (hn : s.rb.length < 4 * n) :
    drainUpTo m s = drainUpTo n s := by
  induction m generalizing n s with
  | zero => exact absurd hm (Nat.not_lt_zero _)
  | succ m ih =>
    obtain ⟨n, rfl⟩ : ∃ k, n = k + 1 := Nat.exists_eq_succ_of_ne_zero (by omega)
    rcases head_cases s with h | h | ⟨f, rest, hf, hrb⟩
    · rw [drainUpTo_succ_of_atRest m h, drainUpTo_succ_of_atRest n h]
    · rw [drainUpTo_succ_of_violating m h, drainUpTo_succ_of_violating n h]
    · have hrest := delivered_rb hrb
      rw [hrb, List.length_append, Frame.wire_length] at hm hn
      rw [drainUpTo_succ_of_wire m hf hrb, drainUpTo_succ_of_wire n hf hrb,
        ih (n := n) (by rw [hrest]; omega) (by rw [hrest]; omega)]

theorem drain_of_atRest {s : State} (h : AtRest s) : drain s = ⟨[], .stall, respond .stall s⟩ :=
  drainUpTo_succ_of_atRest _ h

/-- A drain that begins with a whole Frame yields it and then what a drain from behind it yields. -/
theorem drain_of_wire {s : State} {f : Frame} {rest : List Byte} (hf : f.wf s.cfg = true)
    (hrb : s.rb = f.wire ++ rest) :
    drain s = ⟨f :: (drain (deliverFrame f s)).frames, (drain (deliverFrame f s)).ending,
      (drain (deliverFrame f s)).state⟩ := by
  have hfuel : drain (deliverFrame f s) = drainUpTo (s.rb.length / headerSize) (deliverFrame f s) := by
    refine drainUpTo_congr_fuel ?_ ?_ <;> rw [deliverFrame_rb hrb, headerSize_eq]
    · omega
    · rw [hrb, List.length_append, Frame.wire_length]
      omega
  rw [hfuel]
  exact drainUpTo_succ_of_wire _ hf hrb

/-! ### How a drain ends -/

/-- Everything a drain can end in: a STALL at rest, or the violation of an illegal header (R105). -/
theorem drain_end (s : State) :
    ∃ t : State, t.cfg = s.cfg ∧
      ((AtRest t ∧ (drain s).ending = .stall ∧ (drain s).state = respond .stall t) ∨
        (Violating t ∧ (drain s).ending = .violation (hdrLength t) (hdrType t) ∧
          (drain s).state = raise (.protocolViolation (hdrLength t) (hdrType t)) t)) := by
  induction s using drain_induction with
  | atRest s h => rw [drain_of_atRest h]; exact ⟨s, rfl, .inl ⟨h, rfl, rfl⟩⟩
  | violating s h => rw [drain_of_violating h]; exact ⟨s, rfl, .inr ⟨h, rfl, rfl⟩⟩
  | whole s f rest hf hrb ih => rw [drain_of_wire hf hrb]; exact ih

/-- The Frames yielded are those added to OUT. -/
theorem drain_out (s : State) : (drain s).state.out = s.out ++ (drain s).frames := by
  induction s using drain_induction with
  | atRest s h => rw [drain_of_atRest h, List.append_nil]; rfl
  | violating s h => rw [drain_of_violating h, List.append_nil]; rfl
  | whole s f rest hf hrb ih =>
    rw [drain_of_wire hf hrb, ih, deliverFrame_out, List.append_assoc, List.singleton_append]

/-- Every Frame yielded takes at least the four bytes of its header (R107). -/
theorem drain_frames_length (s : State) : 4 * (drain s).frames.length ≤ s.rb.length := by
  induction s using drain_induction with
  | atRest s h => rw [drain_of_atRest h]; exact Nat.zero_le _
  | violating s h => rw [drain_of_violating h]; exact Nat.zero_le _
  | whole s f rest hf hrb ih =>
    rw [deliverFrame_rb hrb] at ih
    rw [drain_of_wire hf hrb, hrb, List.length_cons, List.length_append, Frame.wire_length]
    omega

/-- At rest there is less than the greatest frame (R121). -/
theorem AtRest.rb_length_le {s : State} (h : AtRest s) : s.rb.length ≤ s.cfg.maxPayload + 3 := by
  rcases h with hs | ⟨hl, hp⟩
  · rw [headerSize_eq] at hs
    omega
  · have hmax := ((legalLength_iff _ _).1 hl).2
    rw [hdrTotal, frameTotal_eq] at hp
    omega

/-- Settles O50, by how a drain ends and the Frames it yields. -/
theorem drainEndsAndLeavesAResidue : Obligations.DrainEndsAndLeavesAResidue := by
  intro s _
  have hframes : (drain s).frames.length ≤ s.rb.length / 4 := by
    have := drain_frames_length s
    omega
  obtain ⟨t, hcfg, ⟨hrest, hend, hstate⟩ | ⟨-, hend, -⟩⟩ := drain_end s
  · refine ⟨by rw [hend]; nofun, hframes, drain_out s, fun _ => ?_⟩
    rw [hstate, ← hcfg]
    exact ⟨hrest, hrest.rb_length_le, drain_of_atRest (s := respond .stall t) hrest⟩
  · exact ⟨by rw [hend]; nofun, hframes, drain_out s, by rw [hend]; nofun⟩

/-! ### A drain over a partial frame (R115) -/

theorem append_extends (T : List Byte) (s : State) : Extends s (append T s) := ⟨rfl, rfl, List.prefix_append _ _⟩

/-- Settles O44: at rest a drain is one STALL; with `total` bytes there EXTRACT delivers. -/
theorem partialFrameStallsUntilWhole : Obligations.PartialFrameStallsUntilWhole := by
  refine fun s => ⟨drain_of_atRest, fun more h4 hl hw => ⟨_, exec_extract 0 _, ?_⟩⟩
  obtain ⟨hlength, htype⟩ := (append_extends more s).header h4
  rw [hlength, htype, drainPass_of_whole _ _ (append more s) hl (by rw [append_rb, List.length_append]; exact hw)]
  rfl

/-! ### A drain over an illegal header (R108, R116) -/

/-- A pass raises ProtocolViolation only at an illegal `length`. -/
theorem drainPass_rsp_of_legal {length : Half} {s : State} (hl : legalLength s.cfg length = true) (type l ty : Half) :
    (drainPass length type s).rsp ≠ some (.protocolViolation l ty) := by
  rcases drainPass_cases length type s with ⟨-, e⟩ | ⟨-, hl', -⟩ | ⟨-, -, -, e⟩ | ⟨-, -, e⟩
  · rw [e]; nofun
  · rw [hl] at hl'; nomatch hl'
  · rw [e]; nofun
  · rw [e]; nofun

/-- Settles O45: what is fed behind an illegal header leaves it at the head; the least and the greatest `length` are
legal. -/
theorem illegalHeaderFailsEveryDrain : Obligations.IllegalHeaderFailsEveryDrain := by
  intro s length type rest more hrb
  have hlength := hdrLength_of_rb hrb
  have htype := hdrType_of_rb hrb
  refine ⟨fun hbad => ?_, fun hgood l ty => ?_⟩
  · have hviol : Violating s := violating_of_rb hrb ((legalLength_false_iff _ _).2 (by omega))
    have hdrain := drain_of_violating hviol
    have hext : Extends s (append more (drain s).state) := by
      rw [hdrain]
      exact ⟨rfl, rfl, List.prefix_append _ _⟩
    obtain ⟨hlength', htype'⟩ := hext.header hviol.1
    rw [drain_of_violating (hext.violating hviol), hlength', htype', hdrain, hlength, htype]
    exact ⟨rfl, rfl, rfl⟩
  · rw [perform_extract, hlength]
    exact drainPass_rsp_of_legal ((legalLength_iff _ _).2 (by omega)) _ l ty

/-- Settles O51, by induction on the Frames ahead of the illegal header. -/
theorem framesAheadOfAViolationAreDelivered : Obligations.FramesAheadOfAViolationAreDelivered := by
  intro s frames length type rest hwf hl hrb
  induction frames generalizing s with
  | nil =>
    rw [drain_of_violating (violating_of_rb hrb hl), hdrLength_of_rb hrb, hdrType_of_rb hrb]
    exact ⟨rfl, rfl, hrb⟩
  | cons f frames ih =>
    obtain ⟨hf, hwf'⟩ := List.forall_mem_cons.1 hwf
    rw [wireOf_cons, List.append_assoc, List.append_assoc] at hrb
    obtain ⟨hframes, htail⟩ := ih (deliverFrame f s) hwf' hl (by rw [deliverFrame_rb hrb, List.append_assoc])
    rw [drain_of_wire hf hrb]
    exact ⟨congrArg _ hframes, htail⟩

end Sys2Proof.Machine
end

section
/-! PROOFS. How the bytes are cut into FEED_BYTEs and where EXTRACTs fall between them makes no difference: in the end
it is a drain of all the bytes (40_decoder_ops.md R114). -/

namespace Sys2Proof.Machine

/-- `t` has what a drain of `s` reads and adds to. -/
structure SameParse (s t : State) : Prop where
  cfg : t.cfg = s.cfg
  rb : t.rb = s.rb
  out : t.out = s.out
  viol : t.viol = s.viol

/-- What R114 compares of two drains. -/
def Drained.outcome (d : Drained) : List Frame × List Byte × DrainEnd × Bool :=
  (d.state.out, d.state.rb, d.ending, d.state.viol)

theorem SameParse.header {s t : State} (h : SameParse s t) : hdrLength t = hdrLength s ∧ hdrType t = hdrType s := by
  rw [hdrLength, hdrType, h.rb]
  exact ⟨rfl, rfl⟩

theorem SameParse.atRest {s t : State} (h : SameParse s t) (hs : AtRest s) : AtRest t := by
  rw [AtRest, hdrLegal, hdrTotal, h.header.1, h.cfg, h.rb]
  exact hs

theorem SameParse.violating {s t : State} (h : SameParse s t) (hs : Violating s) : Violating t := by
  rw [Violating, hdrLegal, h.header.1, h.cfg, h.rb]
  exact hs

theorem SameParse.deliverFrame {s t : State} (h : SameParse s t) (f : Frame) :
    SameParse (deliverFrame f s) (deliverFrame f t) where
  cfg := h.cfg
  rb := congrArg (List.drop f.wire.length) h.rb
  out := congrArg (· ++ [f]) h.out
  viol := h.viol

theorem SameParse.outcome_drain {s t : State} (h : SameParse s t) : (drain t).outcome = (drain s).outcome := by
  induction s using drain_induction generalizing t with
  | atRest s hs =>
    rw [drain_of_atRest hs, drain_of_atRest (h.atRest hs)]
    simp only [Drained.outcome, respond_out, respond_rb, respond_viol, h.out, h.rb, h.viol]
  | violating s hs =>
    rw [drain_of_violating hs, drain_of_violating (h.violating hs), h.header.1, h.header.2]
    simp only [Drained.outcome, raise_protocolViolation, h.out, h.rb]
  | whole s f rest hf hrb ih =>
    rw [drain_of_wire hf hrb, drain_of_wire (h.cfg ▸ hf) (h.rb.trans hrb)]
    exact ih (h.deliverFrame f)

/-- An EXTRACT ahead of the bytes still to come does what the drain behind them does anyway. -/
theorem outcome_drain_append_perform_extract (T : List Byte) (s : State) :
    (drain (append T (perform (.extract 0) s))).outcome = (drain (append T s)).outcome := by
  rcases head_cases s with h | h | ⟨f, rest, hf, hrb⟩
  · rw [perform_extract_of_atRest 0 h]
    exact SameParse.outcome_drain ⟨rfl, rfl, rfl, rfl⟩
  · have hviol := (append_extends T s).violating h
    have hviol' := ((perform_extract_extends 0 h).trans (append_extends T _)).violating h
    rw [perform_extract_of_violating 0 h] at hviol' ⊢
    rw [drain_of_violating hviol, drain_of_violating hviol']
    rfl
  · have hmore : (append T s).rb = f.wire ++ (rest ++ T) := by rw [append_rb, hrb, List.append_assoc]
    rw [perform_extract_of_wire 0 hf hrb, drain_of_wire (s := append T s) hf hmore]
    refine SameParse.outcome_drain ⟨rfl, ?_, rfl, rfl⟩
    rw [deliverFrame_rb hmore, append_rb, delivered_rb hrb]

/-- A drain behind any interleaving whose bytes are all accepted is a drain of all its bytes. -/
theorem outcome_drain_performInbound {ops : List InboundOp} {s : State} (h : allAccepted ops s = true) :
    (drain (performInbound ops s)).outcome = (drain (append (fedBytes ops) s)).outcome := by
  induction ops generalizing s with
  | nil => exact (SameParse.outcome_drain (s := s) (t := append [] s) ⟨rfl, List.append_nil _, rfl, rfl⟩).symm
  | cons op ops ih =>
    cases op with
    | feed b =>
      obtain ⟨hroom, hops⟩ := Bool.and_eq_true_iff.1 h
      refine (ih hops).trans (SameParse.outcome_drain ?_)
      rw [perform_feedByte, feedOne_of_room b s hroom]
      exact ⟨rfl, List.append_assoc .., rfl, rfl⟩
    | extract => exact (ih h).trans (outcome_drain_append_perform_extract _ s)

/-- Settles O43: both interleavings end as a drain of the same bytes. -/
theorem fragmentationDoesNotMatter : Obligations.FragmentationDoesNotMatter := by
  intro s ops ops' hbytes hops hops'
  have h : (drain (performInbound ops s)).outcome = (drain (performInbound ops' s)).outcome := by
    rw [outcome_drain_performInbound hops, outcome_drain_performInbound hops', hbytes]
  simpa only [Drained.outcome, Prod.mk.injEq] using h

end Sys2Proof.Machine
end

section
/-! PROOFS. Feeding a chunk and decoding bytes: the document's own `feed`, `decode` as RESET, feed and drain, the round
trip with ENCODE, and the two worked examples (40_decoder_ops.md R104, R106, R113, R117 to R119). -/

namespace Sys2Proof.Machine

/-! ### The document's `feed` (R104, R118) -/

@[simp] theorem feed_empty (s : State) : feed (some []) s = { s with closed := true, rsp := some .streamClosed } := rfl

@[simp] theorem feed_none (s : State) : feed none s = { s with closed := true, rsp := some .streamClosed } := rfl

/-- Where all the bytes fit, the inbound flow meets no hold and issues one FEED_BYTE a byte. -/
theorem performAll_feedByte_of_fits (S : List Byte) (s : State)
    (hfit : s.cfg.rbCap.admits (s.rb.length + S.length) = true) :
    performAll (S.map .feedByte) s = (feedFlow S s).2 := by
  induction S generalizing s with
  | nil => rfl
  | cons b S ih =>
    have hroom : hasRoom s = true := Bound.admits_of_le (by simp) hfit
    have hfit' : (feedOne b s).cfg.rbCap.admits ((feedOne b s).rb.length + S.length) = true := by
      rw [feedOne_of_room b s hroom]
      exact Bound.admits_of_le (by simp; omega) hfit
    rw [List.map_cons, performAll_cons, perform_feedByte, ih (feedOne b s) hfit', feedFlow]
    simp only [hroom, if_true, perform_feedByte]

theorem feed_eq_feedChunk_of_fits (S : List Byte) (s : State)
    (hfit : s.cfg.rbCap.admits (s.rb.length + S.length) = true) : feed (some S) s = (feedChunk (some S) s).2 := by
  cases S with
  | nil => rfl
  | cons b S => exact performAll_feedByte_of_fits (b :: S) s hfit

theorem feed_of_fits (S : List Byte) (s : State) (hne : S ≠ [])
    (hfit : s.cfg.rbCap.admits (s.rb.length + S.length) = true) : feed (some S) s = respond .ok (append S s) := by
  rw [feed_eq_feedChunk_of_fits S s hfit, feedChunk_of_ne_nil S s hne, feedFlow_of_fits S s hne hfit]

/-- Settles O48: the empty chunk is FEED_EOF, and a chunk that fits is appended. -/
theorem emptyChunkSignalsTheClose : Obligations.EmptyChunkSignalsTheClose := by
  refine ⟨fun s => ⟨feed_empty s, feed_none s⟩, fun s chunk hne hfit => ?_⟩
  rw [feed_of_fits chunk s hne hfit]
  rfl

/-! ### `decode` (R106) -/

theorem feed_out_of_fits (S : List Byte) (s : State) (hfit : s.cfg.rbCap.admits (s.rb.length + S.length) = true) :
    (feed (some S) s).out = s.out := by
  by_cases hne : S = []
  · rw [hne, feed_empty]
  · rw [feed_of_fits S s hne hfit, respond_out, append_out]

/-- RESET leaves the whole buffer free. -/
theorem admits_resetDec {n : Nat} {s : State} (h : s.cfg.rbCap.admits n = true) :
    (resetDec s).cfg.rbCap.admits ((resetDec s).rb.length + n) = true := by
  rwa [resetDec_rb, List.length_nil, Nat.zero_add]

/-- Bytes that fit are decoded by RESET, `feed` and `drain`: no Frame is delivered before the drain. -/
theorem decodeBytes_of_fits (S : List Byte) (s : State) (hfit : s.cfg.rbCap.admits S.length = true) :
    decodeBytes S s = drain (feed (some S) (resetDec s)) := by
  have hfit' := admits_resetDec hfit
  have hout := drain_out (feed (some S) (resetDec s))
  rw [feed_out_of_fits S (resetDec s) hfit', resetDec_out, List.nil_append] at hout
  rw [decodeBytes, ← feed_eq_feedChunk_of_fits S (resetDec s) hfit', hout]

/-- Settles O49: `decodeBytes` is that expansion; of bytes that fit, and so of none, the feed is the document's own. -/
theorem decodeIsResetFeedDrain : Obligations.DecodeIsResetFeedDrain := by
  refine ⟨fun s bytes => ⟨rfl, rfl, rfl⟩, fun s bytes hfit => decodeBytes_of_fits bytes s hfit,
    fun s => ⟨feedChunk_empty _, ?_⟩⟩
  have hrest : AtRest (feed (some []) (resetDec s)) := .inl (Nat.zero_lt_succ 3)
  rw [decodeBytes_of_fits [] s (admits_zero _), drain_of_atRest hrest]
  rfl

/-! ### The round trip (R113) -/

/-- A payload within the limit is sent whole. -/
theorem sentFrame_of_le {sender : Nat} (type : Half) {payload : List Byte} (h : payload.length ≤ sender) :
    sentFrame sender type payload = ⟨BitVec.ofNat 16 (2 + payload.length), type, payload⟩ := by
  rw [sentFrame, Nat.min_eq_left h, List.take_of_length_le h]

/-- Settles O40: the bytes are those of one well-formed Frame, which decoding delivers. -/
theorem decodeOfEncodedFrameIsTheFrame : Obligations.DecodeOfEncodedFrameIsTheFrame := by
  intro s type payload hc hmax
  have hwf := sentFrame_wf s.cfg _ type payload ((Config.valid_iff _).1 hc).1 (Nat.min_le_right _ _)
  rw [← sentFrame_wire, decodeBytes_wire _ s hc hwf, sentFrame_of_le type hmax]
  exact ⟨rfl, rfl, List.drop_length, rfl⟩

/-! ### The worked examples (R117, R119) -/

/-- A Frame of the least `length` is well formed at every `MAX_PAYLOAD`. -/
theorem minimalFrame_wf (c : Config) (type : Half) : Frame.wf c ⟨2, type, []⟩ = true :=
  (Frame.wf_iff _ _).2 ⟨rfl, Nat.zero_le _⟩

/-- One feed of whole Frames that fit, and one drain, yield exactly those Frames. -/
theorem drain_feed_of_wireOf {frames : List Frame} {bytes : List Byte} {s : State} (hbytes : wireOf frames = bytes)
    (hne : bytes ≠ []) (hwf : ∀ f ∈ frames, f.wf s.cfg = true) (hfit : s.cfg.rbCap.admits bytes.length = true) :
    (drain (feed (some bytes) (resetDec s))).frames = frames ∧
    (drain (feed (some bytes) (resetDec s))).ending = .stall := by
  rw [feed_of_fits bytes (resetDec s) hne (admits_resetDec hfit)]
  obtain ⟨hstall, -, hout⟩ := drain_of_wireOf (s := respond .ok (append bytes (resetDec s))) hwf hbytes.symm
  rw [drain_out] at hout
  exact ⟨hout, hstall⟩

/-- Settles O46: the twelve bytes are three minimal Frames, packed. -/
theorem threeFramesFromOneFeed : Obligations.ThreeFramesFromOneFeed := by
  intro s hfit
  have hwf : ∀ f ∈ ([⟨2, 2, []⟩, ⟨2, 1, []⟩, ⟨2, 3, []⟩] : List Frame), f.wf s.cfg = true := by
    simp only [List.forall_mem_cons, minimalFrame_wf, true_and]
    nofun
  exact drain_feed_of_wireOf (by decide) (by decide) hwf hfit

/-- Settles O47: the nine bytes are those of one well-formed Frame, which decoding delivers. -/
theorem helloIsEncodedAndDecoded : Obligations.HelloIsEncodedAndDecoded := by
  have hencode : encodeFrame 1024 1 [0x68, 0x65, 0x6c, 0x6c, 0x6f] =
      [0x00, 0x07, 0x00, 0x01, 0x68, 0x65, 0x6c, 0x6c, 0x6f] := by decide
  have hround := decodeOfEncodedFrameIsTheFrame .reset 1 [0x68, 0x65, 0x6c, 0x6c, 0x6f] (by decide) (by decide)
  exact ⟨hencode, hencode ▸ hround.1⟩

end Sys2Proof.Machine
end

section
/-! PROOFS. What ENCODE returns: the wire form of one well-formed Frame, made of the payload as it is cut
(41_encoder_ops.md R140, R144, R147). -/

namespace Sys2Proof.Machine

/-- Cutting a payload before it is encoded makes no difference: ENCODE cuts it there itself. -/
theorem encodeFrame_take (maxPayload : Nat) (type : Half) (payload : List Byte) :
    encodeFrame maxPayload type (payload.take maxPayload) = encodeFrame maxPayload type payload := by
  rw [encodeFrame, encodeFrame, List.take_take, Nat.min_self]

/-- Settles O42: the bytes are those of the cut payload, which is within the limit, so the round trip applies to it. -/
theorem oversizedPayloadIsCut : Obligations.OversizedPayloadIsCut := by
  intro s type payload hc
  refine ⟨(encodeFrame_take _ type payload).symm, fun hlong => ?_⟩
  have hcut : (payload.take s.cfg.maxPayload).length = s.cfg.maxPayload := List.length_take_of_le hlong
  have hround := decodeOfEncodedFrameIsTheFrame s type (payload.take s.cfg.maxPayload) hc hcut.le
  rw [hcut, encodeFrame_take, Nat.add_comm] at hround
  exact hround.1

/-- Settles O52: the bytes are those of the sent Frame, which is well formed for an encoder's own limit. -/
theorem encoderOutputIsAlwaysAValidFrame : Obligations.EncoderOutputIsAlwaysAValidFrame := by
  intro c type payload hc
  have hwf := sentFrame_wf c c.maxPayload type payload ((Config.valid_iff c).1 hc).1 (Nat.min_le_right _ _)
  have hmax := ((Frame.wf_iff _ _).1 hwf).2
  rw [← sentFrame_wire, Frame.wire_length, maxLengthField_eq]
  exact ⟨by omega, by omega, _, hwf, rfl, rfl⟩

/-- Settles O10: the header bytes are the quotients and remainders by 256 of the sent Frame's fields, and the payload
stands behind them. -/
theorem encodeReturnsOneFrame : Obligations.EncodeReturnsOneFrame := by
  intro type payload s hmax
  have hlength := sentFrame_length_toNat s.cfg.maxPayload type payload hmax
  refine ⟨_, exec_encode type payload s, ?_, rfl, rfl⟩
  rw [← sentFrame_wire, Frame.wire, List.map_append, headerFieldsAreBigEndian.1, hlength]
  rfl

end Sys2Proof.Machine
end

section
/-! PROOFS. The frame kinds by name, legal and illegal, and EXTRACT at such a header (42_frame_types.md R160 to R167). -/

namespace Sys2Proof.Machine

/-- EXTRACT with a header at the head of RB is the meaning of any frame kind with those fields. -/
theorem exec_extract_eq_exec_of_header {i : Instr} {length type : Half} {s : State}
    (hhead : i.header = some (length, type)) (hrb : s.rb.take 4 = headerBytes length type) (data : Byte) :
    exec (.extract data) s = exec i s := by
  have hrb' : s.rb = headerBytes length type ++ s.rb.drop 4 := by rw [← hrb, List.take_append_drop]
  rw [exec_extract, hdrLength_of_rb hrb', hdrType_of_rb hrb', exec_of_header hhead]

/-- A pass over a legal `length` answers STALL until the frame is whole, its header included. -/
theorem drainPass_of_legal_of_not_whole {length : Half} {s : State} (type : Half)
    (hl : legalLength s.cfg length = true) (hp : s.rb.length < frameTotal length) :
    drainPass length type s = respond .stall s := by
  by_cases h4 : s.rb.length < 4
  · exact drainPass_of_short _ _ s h4
  · exact drainPass_of_partial _ _ s (Nat.le_of_not_lt h4) hl hp

/-- Settles O11: the kinds are named by their header fields, and a pass over a legal `length` stalls or delivers. -/
theorem legalFrameKindsDeliver : Obligations.LegalFrameKindsDeliver := by
  intro i length type s hcfg hmin hmax hkind
  have hhead : i.header = some (length, type) := by
    rcases hkind with ⟨rfl, rfl⟩ | ⟨rfl, rfl⟩ | ⟨rfl, rfl⟩ | ⟨rfl, -⟩ <;> rfl
  have hl : legalLength s.cfg length = true := (legalLength_iff _ _).2 ⟨hmin, by omega⟩
  refine ⟨fun hpartial => ?_, fun hwhole => ?_, fun data hrb => exec_extract_eq_exec_of_header hhead hrb data⟩
  · rw [exec_of_header hhead, drainPass_of_legal_of_not_whole type hl hpartial]
    rfl
  · have hpayload : memRead 4 (frameTotal length - 4) s = (s.rb.drop 4).take (length.toNat - 2) := by
      rw [memRead, frameTotal_eq, show 2 + length.toNat - 4 = length.toNat - 2 by omega]
    rw [exec_of_header hhead, drainPass_of_whole _ _ s hl hwhole, deliver_eq, hpayload]

/-- Settles O12: a well-formed illegal kind has an illegal `length`, which a pass meets before it counts the payload. -/
theorem illegalFrameKindsViolate : Obligations.IllegalFrameKindsViolate := by
  intro i length type s hcfg hwf hillegal hhead h4
  have hl : legalLength s.cfg length = false := by
    rw [legalLength_false_iff, hcfg]
    exact (isIllegalHeader_iff hwf hhead).1 hillegal
  refine ⟨?_, fun data hrb => exec_extract_eq_exec_of_header hhead hrb data⟩
  rw [exec_of_header hhead, drainPass_of_illegal _ _ s h4 hl, raise_protocolViolation]

end Sys2Proof.Machine
end

section
/-! PROOFS. RESET as a step with its exact next state (43_system_ops.md R170). -/

namespace Sys2Proof.Machine

/-- What RESET leaves, in full: of the state before, only the parameters, ENC-OUT and the later events remain. -/
theorem resetDec_eq (s : State) :
    resetDec s =
      { cfg := s.cfg, rb := [], closed := false, viol := false, fed := 0, consumed := 0, emitted := 0,
        inStream := [], out := [], rsp := none, encOut := s.encOut, inputs := s.inputs } := rfl

/-- Settles O20: a step at a RESET event is `resetDec` with the event used up, and the command offered with it plays no
part. -/
theorem resetWinsAndClearsTheDecoder : Obligations.ResetWinsAndClearsTheDecoder := by
  intro s offered rest hin
  rw [step_of_rst hin, popInput_of_inputs hin, resetDec_eq]

end Sys2Proof.Machine
end

section
/-! PROOFS. Faults: what taking one does and leaves alone, how precise ProtocolViolation is, and that a close before a
drain loses no Frame (60_exceptions.md R184, R189, R190, R203, R204; 70_reset_and_hazards.md R222). -/

namespace Sys2Proof.Machine

/-! ### Taking a fault (R189) -/

/-- The one fault a pass answers with is the ProtocolViolation of its own header, at an illegal `length`; it is raised
and nothing else is done. -/
theorem drainPass_of_fatal {length type : Half} {s : State} {r : Response} {k : FatalCondition}
    (hrsp : (drainPass length type s).rsp = some r) (hfatal : r.fatal = some k) :
    4 ≤ s.rb.length ∧ legalLength s.cfg length = false ∧ k = .protocolViolation ∧
    r = .protocolViolation length type ∧ drainPass length type s = raise (.protocolViolation length type) s := by
  rcases drainPass_cases length type s with ⟨-, e⟩ | ⟨h4, hl, e⟩ | ⟨-, -, -, e⟩ | ⟨-, -, e⟩ <;> rw [e] at hrsp <;>
    obtain rfl := Option.some.inj hrsp
  · nomatch hfatal
  · exact ⟨h4, hl, (Option.some.inj hfatal).symm, rfl, e⟩
  · nomatch hfatal
  · nomatch hfatal

/-- Settles O13: FEED_EOF raises StreamClosed; EXTRACT and the frame kinds are a pass, which raises or answers no
fault. -/
theorem faultDoesThreeThings : Obligations.FaultDoesThreeThings := by
  intro i s t r k hi hexec hrsp hfatal
  have hpass : ∀ length type, t = drainPass length type s → k = .protocolViolation ∧
      ∃ l ty, r = .protocolViolation l ty ∧ t = { s with viol := true, rsp := some (.protocolViolation l ty) } := by
    rintro length type rfl
    obtain ⟨-, -, hk, hr, e⟩ := drainPass_of_fatal hrsp hfatal
    exact ⟨hk, length, type, hr, e⟩
  rcases hi with ⟨d, rfl | rfl⟩ | hhead
  · obtain rfl := Host.Outcome.next.inj hexec
    obtain rfl := Option.some.inj hrsp
    exact .inl ⟨(Option.some.inj hfatal).symm, raise_streamClosed s⟩
  · rw [exec_extract] at hexec
    exact .inr (hpass _ _ (Host.Outcome.next.inj hexec).symm)
  · obtain ⟨⟨length, type⟩, hheader⟩ := Option.isSome_iff_exists.1 hhead
    rw [exec_of_header hheader] at hexec
    exact .inr (hpass _ _ (Host.Outcome.next.inj hexec).symm)

/-! ### A precise violation (R184, R190) -/

/-- An EXTRACT raises ProtocolViolation only at an illegal header, and reports that header. -/
theorem exec_extract_of_violation {d : Byte} {s t : State} {l ty : Half} (hexec : exec (.extract d) s = .next t)
    (hrsp : t.rsp = some (.protocolViolation l ty)) :
    Violating s ∧ l = hdrLength s ∧ ty = hdrType s ∧ t = raise (.protocolViolation l ty) s := by
  rw [exec_extract] at hexec
  obtain rfl := Host.Outcome.next.inj hexec
  obtain ⟨h4, hl, -, hr, e⟩ := drainPass_of_fatal hrsp rfl
  obtain ⟨rfl, rfl⟩ := Response.protocolViolation.inj hr
  exact ⟨⟨h4, hl⟩, rfl, rfl, e⟩

theorem headerView_of_le {s : State} (h4 : 4 ≤ s.rb.length) : headerView s = some (hdrLength s, hdrType s) :=
  if_neg (Nat.not_lt.2 h4)

theorem perform_of_exec {i : Instr} {s t : State} (h : exec i s = .next t) : perform i s = t := by
  rw [perform, h]

/-- A run ends badly where VIOL is set, with the header still in view as its result (R222). -/
theorem Run.result_of_viol {r : Run} (h : r.final.viol = true) :
    r.result = .endedBadly r.final.out (hdrLength r.final) (hdrType r.final) :=
  if_pos h

/-- Settles O36: raising leaves RB as it is, so the header reported is still the one in view, in the next state and as
the result of the run. -/
theorem violationIsPrecise : Obligations.ViolationIsPrecise := by
  refine ⟨fun d s t l ty hexec hrsp => ?_, fun r d t l ty hexec hrsp => ?_⟩ <;>
    obtain ⟨⟨h4, -⟩, rfl, rfl, rfl⟩ := exec_extract_of_violation hexec hrsp
  · exact ⟨rfl, rfl, rfl, rfl, headerView_of_le h4⟩
  · have hfinal := (Run.final_snoc r.cfg r.ops (.extract d)).trans (perform_of_exec hexec)
    have hviol : (Run.mk r.cfg (r.ops ++ [.extract d])).final.viol = true := by rw [hfinal]; rfl
    refine ⟨hviol, ?_⟩
    rw [Run.result_of_viol hviol, hfinal]
    rfl

/-! ### A close before a drain (R203, R204) -/

theorem drain_closed (s : State) : (drain s).state.closed = s.closed := by
  induction s using drain_induction with
  | atRest s h => rw [drain_of_atRest h]; rfl
  | violating s h => rw [drain_of_violating h]; rfl
  | whole s f rest hf hrb ih => rw [drain_of_wire hf hrb]; exact ih

/-- Settles O54: a drain reads RB and the parameters, which FEED_EOF leaves alone, and never writes CLOSED. -/
theorem closeLosesNoFrame : Obligations.CloseLosesNoFrame := by
  intro d s
  have hclose : SameParse s (perform (.feedEof d) s) := ⟨rfl, rfl, rfl, rfl⟩
  have houtcome := hclose.outcome_drain
  simp only [Drained.outcome, Prod.mk.injEq] at houtcome
  obtain ⟨hout, hrb, hending, -⟩ := houtcome
  rw [drain_out, drain_out, hclose.out] at hout
  exact ⟨List.append_cancel_left hout, hending, hrb, drain_closed _⟩

end Sys2Proof.Machine
end

section
/-! PROOFS. Nothing the block does stops the machine: every instruction completes, and a step stops only where the ports
are misused (60_exceptions.md R189, R201; 70_reset_and_hazards.md R216). -/

namespace Sys2Proof.Machine

/-- Settles O14: the meaning of each kind of instruction is a next state. -/
theorem everyInstructionAnswersANextState : Obligations.EveryInstructionAnswersANextState := exec_answers

theorem step_of_idle {s : State} (h : s.inputs = []) : step s = .next s := by
  rw [step, fetch, h]

theorem step_of_clash {s : State} {v w : CmdWord} {rest : List HostEvent} (h : s.inputs = .clash v w :: rest) :
    step s = .refused .twoIssuers := by
  rw [step, fetch, h]

/-- An ENC request that cannot be presented is refused (log entry 12). -/
theorem step_of_not_presentable {s : State} {type : Half} {request : Option (List Byte)} {rest : List HostEvent}
    (h : s.inputs = .encRequest type request :: rest)
    (hadmits : s.cfg.encInMax.admits (payloadOperand request).length = false) :
    step s = .refused .payloadNotPresentable := by
  have hfetch : fetch s = .refuse .payloadNotPresentable := by
    rw [fetch, h]
    exact if_neg (Bool.eq_false_iff.1 hadmits)
  rw [step, hfetch]

/-- Settles O22, by the event at the head of the inputs. -/
theorem stepStopsOnlyOnMisuseOfThePorts : Obligations.StepStopsOnlyOnMisuseOfThePorts := by
  refine ⟨fun _ => step_of_idle, fun _ _ _ _ => step_of_clash, fun _ _ _ _ => step_of_not_presentable,
    fun s hclash hpresentable => ?_⟩
  match hin : s.inputs with
  | [] => exact ⟨s, step_of_idle hin⟩
  | .rst offered :: rest => exact ⟨_, step_of_rst hin⟩
  | .cmd w :: rest =>
    rw [step_of_cmd hin]
    exact exec_answers _ _
  | .clash v w :: rest => exact absurd hin (hclash v w rest)
  | .encRequest type request :: rest =>
    rw [step_of_encRequest hin rfl (hpresentable type request rest hin)]
    exact exec_answers _ _

end Sys2Proof.Machine
end

section
/-! PROOFS. How a run ends: when its last drain stands, and that RB is at rest from then on (40_decoder_ops.md R105;
70_reset_and_hazards.md R222). -/

namespace Sys2Proof.Machine

/-! ### The bytes accepted (R28) -/

theorem drainPass_fed (length type : Half) (s : State) : (drainPass length type s).fed = s.fed := by
  obtain ⟨-, -, hfed, -⟩ := drainPass_frame length type s
  exact hfed

/-- `FED` never falls before the next RESET. -/
theorem fed_le_perform (i : Instr) (s : State) : s.fed ≤ (perform i s).fed := by
  cases i with
  | feedByte b =>
    cases hr : hasRoom s
    · rw [perform_feedByte, feedOne_of_full b s hr]
    · rw [perform_feedByte, feedOne_of_room b s hr]
      exact Nat.le_succ _
  | feedEof | reservedCmd | encode => exact le_rfl
  | _ => exact (drainPass_fed _ _ s).ge

theorem fed_le_performAll (ops : List Instr) (s : State) : s.fed ≤ (performAll ops s).fed := by
  induction ops generalizing s with
  | nil => exact le_rfl
  | cons i ops ih => exact (fed_le_perform i s).trans (ih _)

/-- With no byte accepted over the whole sequence, none is accepted by its first operation or by the others. -/
theorem fed_perform_of_performAll {i : Instr} {ops : List Instr} {s : State}
    (h : (performAll (i :: ops) s).fed = s.fed) :
    (perform i s).fed = s.fed ∧ (performAll ops (perform i s)).fed = (perform i s).fed := by
  have hfirst := fed_le_perform i s
  have hothers := fed_le_performAll ops (perform i s)
  rw [performAll_cons] at h
  omega

/-! ### At rest until a byte is accepted (R47, R115) -/

theorem atRest_of_extract_stall {d : Byte} {s : State} (h : (perform (.extract d) s).rsp = some .stall) :
    AtRest (perform (.extract d) s) := by
  rw [perform_extract] at h ⊢
  rcases drainPass_cases (hdrLength s) (hdrType s) s with ⟨hs, e⟩ | ⟨-, -, e⟩ | ⟨-, hl, hp, e⟩ | ⟨-, -, e⟩ <;>
    rw [e] at h ⊢
  · exact .inl hs
  · nomatch h
  · exact .inr ⟨hl, hp⟩
  · nomatch h

theorem AtRest.perform {i : Instr} {s : State} (h : AtRest s) (hi : i.header = none)
    (hfed : (perform i s).fed = s.fed) : AtRest (perform i s) := by
  cases i with
  | feedByte b =>
    rw [perform_feedByte] at hfed ⊢
    cases hr : hasRoom s
    · rwa [feedOne_of_full b s hr]
    · rw [feedOne_of_room b s hr] at hfed
      exact absurd hfed (Nat.succ_ne_self _)
  | extract d =>
    rw [perform_extract_of_atRest d h]
    exact h
  | feedEof | reservedCmd | encode => exact h
  | _ => nomatch hi

theorem AtRest.performAll {ops : List Instr} {s : State} (h : AtRest s) (hops : ∀ i ∈ ops, i.header = none)
    (hfed : (performAll ops s).fed = s.fed) : AtRest (performAll ops s) := by
  induction ops generalizing s with
  | nil => exact h
  | cons i ops ih =>
    obtain ⟨hi, hops'⟩ := List.forall_mem_cons.1 hops
    obtain ⟨hfirst, hothers⟩ := fed_perform_of_performAll hfed
    exact ih (h.perform hi hfirst) hops' hothers

/-! ### The last drain of a run (R222) -/

theorem performAll_snoc (ops : List Instr) (i : Instr) (s : State) :
    performAll (ops ++ [i]) s = perform i (performAll ops s) := performAll_append ops [i] s

/-- Some EXTRACT of the run answered STALL, and no byte was accepted after it. -/
def Run.StalledLast (r : Run) : Prop :=
  ∃ before after d, r.ops = before ++ .extract d :: after ∧
    (performAll (before ++ [.extract d]) r.start).rsp = some .stall ∧
    (performAll (before ++ [.extract d]) r.start).fed = r.final.fed

theorem Run.StalledLast.snoc {c : Config} {ops : List Instr} {i : Instr} (h : (Run.mk c ops).StalledLast)
    (hfed : (perform i (Run.mk c ops).final).fed = (Run.mk c ops).final.fed) :
    (Run.mk c (ops ++ [i])).StalledLast := by
  obtain ⟨before, after, d, rfl, hstall, hlast⟩ := h
  refine ⟨before, after ++ [i], d, List.append_assoc _ _ _, hstall, ?_⟩
  rw [Run.final_snoc, hfed]
  exact hlast

/-- A STALL on the response port is the answer of the EXTRACT just performed, or was there before; either way no byte
was accepted. -/
theorem perform_of_stall {i : Instr} {s : State} (hi : i.header = none) (h : (perform i s).rsp = some .stall) :
    (perform i s).fed = s.fed ∧ ((∃ d, i = .extract d) ∨ s.rsp = some .stall) := by
  cases i with
  | feedByte b =>
    rw [perform_feedByte] at h ⊢
    cases hr : hasRoom s
    · rw [feedOne_of_full b s hr] at h ⊢
      exact ⟨rfl, .inr h⟩
    · rw [feedOne_of_room b s hr] at h
      nomatch h
  | extract d => exact ⟨drainPass_fed _ _ s, .inl ⟨d, rfl⟩⟩
  | feedEof | reservedCmd => nomatch h
  | encode => exact ⟨rfl, .inr h⟩
  | _ => nomatch hi

theorem Run.stalledLast_of_rsp {c : Config} {ops : List Instr} (hops : ∀ i ∈ ops, i.header = none)
    (h : (Run.mk c ops).final.rsp = some .stall) : (Run.mk c ops).StalledLast := by
  induction ops using List.reverseRecOn with
  | nil => nomatch h
  | append_singleton ops i ih =>
    obtain ⟨hops', hi⟩ := List.forall_mem_append.1 hops
    have hstall := h
    rw [Run.final_snoc] at h
    obtain ⟨hfed, ⟨d, rfl⟩ | hbefore⟩ := perform_of_stall (hi i List.mem_cons_self) h
    · exact ⟨ops, [], d, rfl, hstall, rfl⟩
    · exact (ih hops' hbefore).snoc hfed

theorem Run.stalledLast_of_drained {c : Config} {ops : List Instr} (hops : ∀ i ∈ ops, i.header = none)
    (h : (Run.mk c ops).drained = true) : (Run.mk c ops).StalledLast := by
  induction ops using List.reverseRecOn with
  | nil => nomatch h
  | append_singleton ops i ih =>
    rw [Run.drained_snoc, Bool.and_eq_true, Bool.or_eq_true, beq_iff_eq, beq_iff_eq] at h
    obtain ⟨hfed, hdrained | hstall⟩ := h
    · exact (ih (List.forall_mem_append.1 hops).1 hdrained).snoc hfed
    · exact Run.stalledLast_of_rsp hops ((congrArg _ (Run.final_snoc c ops i)).trans hstall)

theorem drainStands_of_fed {ops : List Instr} {s : State} (h : (performAll ops s).fed = s.fed) :
    drainStands ops s true = true := by
  induction ops generalizing s with
  | nil => rfl
  | cons i ops ih =>
    obtain ⟨hfirst, hothers⟩ := fed_perform_of_performAll h
    rw [drainStands, hfirst, beq_self_eq_true, Bool.true_or, Bool.and_true]
    exact ih hothers

theorem Run.StalledLast.drained {r : Run} (h : r.StalledLast) : r.drained = true := by
  obtain ⟨before, after, d, hops, hstall, hlast⟩ := h
  have hstands : drainStands (before ++ [.extract d]) r.start false = true := by
    rw [performAll_snoc] at hstall
    rw [drainStands_append, drainStands, drainStands, hstall, (perform_of_stall rfl hstall).1, beq_self_eq_true,
      beq_self_eq_true, Bool.or_true, Bool.and_true]
  rw [List.append_cons] at hops
  rw [Run.final, hops, performAll_append _ after] at hlast
  rw [Run.drained, hops, drainStands_append _ after, hstands, drainStands_of_fed hlast.symm]

theorem Run.drained_iff {r : Run} (hops : ∀ i ∈ r.ops, i.header = none) : r.drained = true ↔ r.StalledLast :=
  ⟨Run.stalledLast_of_drained hops, Run.StalledLast.drained⟩

theorem Run.StalledLast.atRest {r : Run} (h : r.StalledLast) (hops : ∀ i ∈ r.ops, i.header = none) :
    AtRest r.final := by
  obtain ⟨before, after, d, hsplit, hstall, hlast⟩ := h
  rw [List.append_cons] at hsplit
  rw [Run.final, hsplit, performAll_append _ after] at hlast ⊢
  rw [hsplit, List.forall_mem_append] at hops
  rw [performAll_snoc] at hstall hlast ⊢
  exact (atRest_of_extract_stall hstall).performAll hops.2 hlast.symm

theorem Run.endedWell_iff (r : Run) :
    r.endedWell = true ↔ r.final.closed = true ∧ r.final.viol = false ∧ r.drained = true := by
  rw [Run.endedWell, Bool.and_eq_true, Bool.and_eq_true, Bool.not_eq_true', and_assoc]

/-- Settles O37: a drain stands at the end exactly when no byte was accepted after some STALL, and from that STALL on RB
stays at rest. -/
theorem runEndsWellAfterCloseAndDrain : Obligations.RunEndsWellAfterCloseAndDrain := by
  intro r hops
  refine ⟨?_, fun hwell => ?_, fun hwell hbadly => ?_⟩
  · rw [Run.endedWell_iff, Run.drained_iff hops]
    rfl
  · obtain ⟨-, hviol, hdrained⟩ := r.endedWell_iff.1 hwell
    have hrest := ((Run.drained_iff hops).1 hdrained).atRest hops
    exact ⟨hrest, by rw [Run.result, Run.endedBadly, hviol, hwell]; rfl, drain_of_atRest hrest⟩
  · rw [Run.result, hbadly, hwell]
    rfl

end Sys2Proof.Machine
end

section
/-! PROOFS. The steps of a run: one for each event, up to the next RESET, and none that changes DEC once the run is over
(20_memory.md R46, R55; 60_exceptions.md R201; 70_reset_and_hazards.md R222). -/

namespace Sys2Proof.Machine

/-! ### What the commands of DEC do not read (R55) -/

/-- `s` with other frames returned by ENC and other events to come. -/
def withPorts (encOut : List (List Byte)) (inputs : List HostEvent) (s : State) : State :=
  { s with encOut := encOut, inputs := inputs }

section
variable (encOut : List (List Byte)) (inputs : List HostEvent)

theorem feedOne_withPorts (b : Byte) (s : State) :
    feedOne b (withPorts encOut inputs s) = withPorts encOut inputs (feedOne b s) := by
  cases hr : hasRoom s
  · rw [feedOne_of_full b s hr, feedOne_of_full b (withPorts encOut inputs s) hr]
  · rw [feedOne_of_room b s hr, feedOne_of_room b (withPorts encOut inputs s) hr]
    rfl

theorem drainPass_withPorts (length type : Half) (s : State) :
    drainPass length type (withPorts encOut inputs s) = withPorts encOut inputs (drainPass length type s) := by
  rcases drainPass_cases length type s with ⟨hs, e⟩ | ⟨h4, hl, e⟩ | ⟨h4, hl, hp, e⟩ | ⟨hl, hw, e⟩ <;> rw [e]
  · rw [drainPass_of_short _ _ (withPorts encOut inputs s) hs]
    rfl
  · rw [drainPass_of_illegal _ _ (withPorts encOut inputs s) h4 hl]
    rfl
  · rw [drainPass_of_partial _ _ (withPorts encOut inputs s) h4 hl hp]
    rfl
  · rw [drainPass_of_whole _ _ (withPorts encOut inputs s) hl hw]
    rfl

/-- A command of DEC neither reads nor changes what ENC returned or what the host does next (R55). -/
theorem perform_decodeCmd_withPorts (w : CmdWord) (s : State) :
    perform (decodeCmd w) (withPorts encOut inputs s) = withPorts encOut inputs (perform (decodeCmd w) s) := by
  rcases decodeCmd_cases w with e | e | e | e <;> rw [e]
  · exact feedOne_withPorts encOut inputs _ s
  · rfl
  · exact drainPass_withPorts encOut inputs _ _ s
  · rfl

theorem performAll_operationsToCome_withPorts (events : List HostEvent) (s : State) :
    performAll (operationsToCome events) (withPorts encOut inputs s) =
      withPorts encOut inputs (performAll (operationsToCome events) s) := by
  induction events generalizing s with
  | nil => rfl
  | cons e events ih =>
    cases e with
    | rst => rfl
    | cmd w => rw [operationsToCome, performAll_cons, performAll_cons, perform_decodeCmd_withPorts, ih]
    | clash v w =>
      simp only [operationsToCome, performAll_cons, perform_decodeCmd_withPorts]
      exact ih _
    | encRequest type payload => exact ih s

end

theorem exec_eq_perform (i : Instr) (s : State) : exec i s = .next (perform i s) := by
  obtain ⟨t, ht⟩ := exec_answers i s
  rw [ht, perform_of_exec ht]

theorem perform_cfg (i : Instr) (s : State) : (perform i s).cfg = s.cfg := exec_cfg (exec_eq_perform i s)

/-! ### The steps of a run (R46, R222) -/

/-- A command, or an ENC request that can be presented: what a step performs within a run. -/
def HostEvent.Presentable (c : Config) (e : HostEvent) : Prop :=
  (∃ w, e = .cmd w) ∨
    ∃ type payload, e = .encRequest type payload ∧ c.encInMax.admits (payload.getD []).length = true

/-- The step at such an event leads, up to the ports, to a state from which the later events perform what is left of the
operations to come. -/
theorem step_of_presentable {e : HostEvent} {inputs : List HostEvent} {s : State} (hin : s.inputs = e :: inputs)
    (he : e.Presentable s.cfg) :
    ∃ encOut t, step s = .next (withPorts encOut inputs t) ∧ t.cfg = s.cfg ∧
      ∀ events, performAll (operationsToCome (e :: events)) s = performAll (operationsToCome events) t := by
  rcases he with ⟨w, rfl⟩ | ⟨type, payload, rfl, hadmits⟩
  · refine ⟨s.encOut, perform (decodeCmd w) s, ?_, perform_cfg _ s, fun _ => rfl⟩
    rw [step_of_cmd hin, popInput_of_inputs hin, exec_eq_perform, ← perform_decodeCmd_withPorts]
    rfl
  · exact ⟨_, s, step_of_encRequest hin rfl hadmits, rfl, fun _ => rfl⟩

/-- One step for each event performs the operations of DEC among them. -/
theorem steps_perform_operationsToCome {events rest : List HostEvent} {s : State} (hin : s.inputs = events ++ rest)
    (hevents : ∀ e ∈ events, e.Presentable s.cfg) :
    ∃ encOut, steps events.length s =
      .next (withPorts encOut rest (performAll (operationsToCome events) s)) := by
  induction events generalizing s with
  | nil => exact ⟨s.encOut, by subst hin; rfl⟩
  | cons e events ih =>
    obtain ⟨he, hevents'⟩ := List.forall_mem_cons.1 hevents
    rw [List.cons_append] at hin
    obtain ⟨sent, t, hstep, hcfg, hops⟩ := step_of_presentable hin he
    obtain ⟨encOut, hsteps⟩ := ih (s := withPorts sent (events ++ rest) t) rfl (hcfg ▸ hevents')
    refine ⟨encOut, ?_⟩
    rw [List.length_cons, steps_of_step _ hstep, hsteps, performAll_operationsToCome_withPorts, hops]
    rfl

/-- What RESET leaves is the start of the run to come, up to ENC-OUT and the events. -/
theorem resetDec_eq_withPorts_start (s : State) :
    resetDec s = withPorts s.encOut s.inputs (Run.of (resetDec s)).start := rfl

/-- Settles O38: RESET leaves the start of the run, and from there each step performs its event. -/
theorem stepsPerformTheRun : Obligations.StepsPerformTheRun := by
  intro s offered events rest hin hevents hrest
  have hstep := step_of_rst hin
  rw [popInput_of_inputs hin] at hstep
  obtain ⟨encOut, hsteps⟩ :=
    steps_perform_operationsToCome (s := resetDec { s with inputs := events ++ rest }) rfl hevents
  refine ⟨_, _, hstep, hsteps, ?_, rfl, ?_⟩
  · rcases hrest with rfl | ⟨o, more, rfl⟩ <;> rfl
  · rw [Run.final, Run.of, resetDec_inputs, operationsToCome_append events rest hrest, resetDec_eq_withPorts_start,
      performAll_operationsToCome_withPorts]
    rfl

/-! ### A run that is over (R201, R222) -/

/-- Settles O39: only an ENC request is left to perform before the next RESET. -/
theorem runOverIsFinal : Obligations.RunOverIsFinal := by
  intro s t hover hrst hstep
  rcases step_cases hstep with ⟨hin, rfl⟩ | ⟨offered, rest, hin, -⟩ | ⟨w, rest, hin, -⟩ |
    ⟨type, payload, rest, hin, -, hexec⟩
  · exact ⟨hover, by rw [hin, List.tail_nil, ← hin]⟩
  · exact absurd hin (hrst offered rest)
  · rw [runOver, hin] at hover
    nomatch hover
  · rw [exec_encode] at hexec
    obtain rfl := Host.Outcome.next.inj hexec
    rw [runOver, hin] at hover
    exact ⟨by rw [runOver, sendOut_inputs, popInput_inputs, hin]; exact hover, rfl⟩

end Sys2Proof.Machine
end
